-- ==== Sys2Proof/Word.lean ====
section
/-! DEFINITION. The words of the block's ports (00_scope.md R11, 30_encoding.md R70). -/

namespace Sys2Proof

/-- A 32-bit word: an operand, a result datum, a device register value, a queued status word. -/
abbrev Word := BitVec 32

/-- The 16-bit command word `CW` (R70). -/
abbrev CmdWord := BitVec 16

/-- One transaction presented on the command port: `CW` and `VAL` (R70). -/
structure Command where
  /-- `CW`, the command word. -/
  cw : CmdWord
  /-- `VAL`, the operand. -/
  val : Word
  deriving DecidableEq, Repr

end Sys2Proof
end

