-- ==== Sys2Proof/Config.lean ====
section
/-! DEFINITION. What an implementation fixes (00_scope.md R9) and the free values of the spec: constants with no body,
so that nothing can be proved of their values. -/

namespace Sys2Proof

/-- `POS_WIDTH`, the one build option: 16 or 24 bits (R3, R23). -/
inductive PosWidth where
  /-- W = 16 -/
  | w16
  /-- W = 24 -/
  | w24
  deriving DecidableEq, Repr

/-- `DEV_BYTE_ORDER`, the byte order of the device register block (R9); the block never observes it (R52). -/
inductive ByteOrder where
  | little
  | big
  deriving DecidableEq, Repr

/-- The parameters of an instance of the block (R9). DESIGN CHOICE (safe, log 1 and 12): they ride in `State` as a field that no
step writes, and the storage size is held as what it exceeds 16 by, so that `QUEUE_MAX_DEPTH >= 16` (D10) holds of
every value. -/
structure Params where
  /-- `POS_WIDTH` -/
  posWidth : PosWidth
  /-- `QUEUE_MAX_DEPTH - 16` -/
  storageAbove16 : Nat
  /-- `DEV_BYTE_ORDER` -/
  devByteOrder : ByteOrder
  deriving DecidableEq, Repr

/-- Whether this hardware is the 24-bit variant: a parameter, no value chosen (R3; log 1). -/
opaque Config.posWidthIs24 : Bool

/-- `QUEUE_MAX_DEPTH - 16` of this hardware: a parameter, no value chosen (D10; log 12). -/
opaque Config.storageAbove16 : Nat

/-- Whether the register block is big-endian: a parameter, no value chosen (D13; log 1). -/
opaque Config.devIsBigEndian : Bool

/-- FREE VALUE: what the device presents to the n-th read of a run when the environment's list of draws is
empty (R57, D31: "every read value is a draw"; log 2). -/
opaque Config.deviceRead : Nat → Word

/-- FREE VALUE: the content, after the n-th OPEN, of a queue slot that no push has written (R25, D41, I9; log 4). -/
opaque Config.unwrittenSlot : Nat → Nat → Word

/-- This hardware's parameters, none of whose values the model chooses (log 1). -/
def Config.params : Params where
  posWidth := bif Config.posWidthIs24 then .w24 else .w16
  storageAbove16 := Config.storageAbove16
  devByteOrder := bif Config.devIsBigEndian then .big else .little

end Sys2Proof
end

