-- ==== Sys2Proof/Machine/State.lean ====
section
/-! DEFINITION. The state of the block (10_state.md R20 to R40), what a model records (20_memory.md R65), the reasons a step can
stop, and the state after a hardware reset (70_reset_and_hazards.md R230). -/

namespace Sys2Proof.Machine

/-- `life` (R20). -/
inductive Life where
  | closed
  | opened
  deriving DecidableEq, Repr

/-- `pendingError` (R32): NONE or QUEUE_FULL. -/
inductive PendingError where
  | none
  | queueFull
  deriving DecidableEq, Repr

/-- The result codes (30_encoding.md R76); their numbers are `ResultCode.code`. -/
inductive ResultCode where
  | ok
  | noStatus
  | queueFull
  | allocationFailure
  | signalAlreadyInstalled
  | signalNotInstalled
  | unsupportedOperation
  | unknownOption
  deriving DecidableEq, Repr

/-- What a command returns: `RES` and `DATA` (R76). -/
structure Response where
  res : ResultCode
  data : Word
  deriving DecidableEq, Repr

/-- The notification channels (60_exceptions.md R206). -/
inductive Channel where
  /-- CH_PR, press/release. -/
  | pr
  /-- CH_MOVE, move. -/
  | move
  deriving DecidableEq, Repr

/-- What a model records of a run (20_memory.md R65). -/
inductive Event where
  /-- A 32-bit read of the device register at this offset, and the value the device presented. -/
  | read (off : Nat) (v : Word)
  /-- A 32-bit write of this value to the device register at this offset. -/
  | write (off : Nat) (v : Word)
  /-- A notification: channel and handle. -/
  | notify (ch : Channel) (id : Word)
  deriving DecidableEq, Repr

/-- The queue storage (R25): (index, word) pairs, indices strictly rising; a slot that no push has written since OPEN is not
listed. -/
abbrev Slots := List (Nat × Word)

/-- The elements that exist while `life = OPEN` (R24 to R34, R38). -/
structure Instance where
  /-- `N`, the slot count (R24). -/
  slotCount : Nat
  /-- `slot`, the queue storage (R25). -/
  slots : Slots
  /-- `in`, the producer index (R26). -/
  inIdx : Nat
  /-- `out`, the consumer index (R27). -/
  outIdx : Nat
  /-- `enableMask`: bit 0 press, 1 release, 2 up, 3 down (R29). -/
  enableMask : BitVec 4
  /-- `irqActive`, the global interrupt enable (R30). -/
  irqActive : Bool
  /-- `pendingError` (R32). -/
  pendingError : PendingError
  /-- `prNotifier`; 0 means none installed (R33). -/
  prNotifier : Word
  /-- `moveNotifier`; 0 means none installed (R33). -/
  moveNotifier : Word
  /-- `irqCount` (R34). -/
  irqCount : Word
  deriving DecidableEq, Repr

/-- The machine. The first field is the instance's parameters, the second the block's own state; `port`, `response` and `trace` are its
ports; `draws`, `drawCount` and `opens` are the model's own, for the free values (log 2, 4). -/
structure State where
  /-- The parameters of R9, which no step writes (log 1). -/
  params : Params
  /-- The open instance; `none` while `life = CLOSED`, when no element has a value (R20, R38; log 7). -/
  inst : Option Instance
  /-- The commands the host has issued or will issue, oldest first (R16, R70; log 5). -/
  port : List Command
  /-- The values the device presents to the next reads, first to last (R57; log 2). -/
  draws : List Word
  /-- How many device reads have been made: indexes the free value once `draws` is empty (log 2). -/
  drawCount : Nat
  /-- How many OPENs have succeeded: indexes the free content of unwritten slots (log 4). -/
  opens : Nat
  /-- Every device access and notification so far, oldest first (R59, R65; log 8). -/
  trace : List Event
  /-- The last response returned on the command port (R70; log 9). -/
  response : Option Response
  deriving DecidableEq, Repr

/-- `life` is OPEN exactly when there is an instance (R20). -/
def State.life (s : State) : Life :=
  match s.inst with
  | none => .closed
  | some _ => .opened

/-- The block raises no exception and has no trap (60_exceptions.md R200): a step never faults, so there is no reason to list (log 14). -/
inductive Fault where
  deriving DecidableEq, Repr

/-- Why a command is refused: it has no meaning, no state changes and nothing is emitted (R13, D8; log 6). -/
inductive Refusal where
  /-- Raised by an arm of `exec` whose command has no meaning yet; no arm raises it now. Safe. -/
  | notModelled (mnemonic : String)
  /-- Raised while CLOSED by every command except OPEN and QUERY_INFO: "refuse(not-open)" (46_lifecycle.md R192). Safe. -/
  | notOpen
  /-- Raised by OPEN while OPEN: "refuse(already-open)" (46_lifecycle.md R190, R192). Safe. -/
  | alreadyOpen
  /-- Raised by `step` on a command whose OP is 0x00 or 0x0B to 0xFF (30_encoding.md R78). Safe. -/
  | reservedOp (op : BitVec 8)
  deriving DecidableEq, Repr

/-- After a hardware reset (R230): CLOSED, no element of the block has a value, no access has been made, no command waits. The
parameters are this hardware's; the other fields are the model's own (log 3). -/
def State.reset : State where
  params := Config.params
  inst := none
  port := []
  draws := []
  drawCount := 0
  opens := 0
  trace := []
  response := none

end Sys2Proof.Machine
end

