-- ==== Sys2Proof/Machine/Operands.lean ====
section
/-! DEFINITION. The operand forms and the named constants of the commands (00_scope.md R9, R14; 30_encoding.md R74, R75, R76, R83). -/

namespace Sys2Proof

/-- `DEFAULT_DEPTH` (R9). -/
def defaultDepth : Nat := 16

/-- `MIN_DEPTH` (R9). -/
def minDepth : Nat := 2

/-- `QUEUE_MAX_DEPTH` (R9, D10): the parameter, at least 16. -/
def Params.queueMaxDepth (p : Params) : Nat := p.storageAbove16 + 16

/-- `REG_BLOCK_SIZE` in bytes (R9). -/
def regBlockSize : Nat := 16

/-- `OFF_POS`, the position counter (20_memory.md R51). -/
def offPos : Nat := 0x0

/-- `OFF_IEN`, the interrupt enable register (R51). -/
def offIen : Nat := 0x4

/-- `OFF_ISTAT`, the interrupt status / ack register (R51). -/
def offIstat : Nat := 0x8

namespace Machine

/-- The depth an OPEN asks for (R74): 0 is the default, 1 is raised to the minimum. -/
def depthOf (val : Word) : Nat :=
  if val = 0#32 then defaultDepth
  else if val = 1#32 then minDepth
  else val.toNat

/-- A boolean operand: any value but 0 is true (R75). -/
def boolOperand (val : Word) : Bool := val != 0#32

/-- The 8-bit number of a result code on `RES` (R76). -/
def ResultCode.code : ResultCode → BitVec 8
  | .ok => 0x00
  | .noStatus => 0x01
  | .queueFull => 0x02
  | .allocationFailure => 0x03
  | .signalAlreadyInstalled => 0x04
  | .signalNotInstalled => 0x05
  | .unsupportedOperation => 0x06
  | .unknownOption => 0x07

/-- The number of a notification channel (60_exceptions.md R206). -/
def Channel.code : Channel → Nat
  | .pr => 0
  | .move => 1

/-- The descriptor word of QUERY_INFO, field by field (R82, R83). -/
def descriptorWord : Word :=
  let channels : BitVec 8 := 1
  let addressSpaces : BitVec 8 := 1
  let spaceSize : BitVec 8 := BitVec.ofNat 8 regBlockSize
  let irqRequired : BitVec 1 := 1
  let lockRequired : BitVec 1 := 1
  (0 : BitVec 6) ++ lockRequired ++ irqRequired ++ spaceSize ++ addressSpaces ++ channels

end Machine

end Sys2Proof
end

