-- ==== Sys2Proof/Machine/Flags.lean ====
section
/-! DEFINITION. The event bits and the status word: the block has no condition codes (10_state.md R35); its flags are the bits of the
device registers and of `enableMask` (30_encoding.md R84) and the three event flags of a status word (R79), encoded and
decoded by 41_encoder.md R120 and R121. -/

namespace Sys2Proof

/-- `W`, the position width in bits (R9). -/
def PosWidth.bits : PosWidth → Nat
  | .w16 => 16
  | .w24 => 24

/-- `POS_MASK = 2^W - 1` (R9). -/
def PosWidth.mask : PosWidth → Word
  | .w16 => 0x0000FFFF#32
  | .w24 => 0x00FFFFFF#32

/-- `SX_SHIFT = 32 - W` (R9). -/
def PosWidth.sxShift : PosWidth → Nat
  | .w16 => 16
  | .w24 => 8

namespace Machine

/-- `PRESS` (R14). -/
def evPress : BitVec 4 := 0x1#4

/-- `RELEASE` (R14). -/
def evRelease : BitVec 4 := 0x2#4

/-- `UP` (R14). -/
def evUp : BitVec 4 := 0x4#4

/-- `DOWN` (R14). -/
def evDown : BitVec 4 := 0x8#4

/-- `PR = PRESS | RELEASE` (R14). -/
def evPR : BitVec 4 := evPress ||| evRelease

/-- `UD = UP | DOWN` (R14). -/
def evUD : BitVec 4 := evUp ||| evDown

/-- `ALL` (R14). -/
def evAll : BitVec 4 := evPR ||| evUD

/-- The bit of `POSCHG` in the device status register (R84). -/
def poschgBit : Nat := 4

/-- The low four bits of a status read: the latches PRESS, RELEASE, UP, DOWN (R84). -/
def latchBits (status : Word) : BitVec 4 := status.extractLsb' 0 4

/-- `W_PRESSED` (R14). -/
def wPressed : Word := 0x01000000#32

/-- `W_RELEASED` (R14). -/
def wReleased : Word := 0x02000000#32

/-- `W_MOVED` (R14). -/
def wMoved : Word := 0x04000000#32

/-- `W_FLAGS` (R14): the three event flags of a status word. -/
def wFlags : Word := 0x07000000#32

/-- `Encode(pressed, released, moved, pos)` (R120). -/
def encodeStatus (W : PosWidth) (pressed released moved : Bool) (pos : Word) : Word :=
  let w : Word := 0#32
  let w := if pressed then w ||| wPressed else w
  let w := if released then w ||| wReleased else w
  if moved then w ||| (wMoved ||| (pos &&& W.mask)) else w

/-- What a reader sees in a status word (R121). -/
structure DecodedStatus where
  pressed : Bool
  released : Bool
  moved : Bool
  /-- The position, a signed 32-bit value. -/
  position : Word
  deriving DecidableEq, Repr

/-- `Decode(w)` (R121): the position is the sign extension of the low W bits (R12). -/
def decodeStatus (W : PosWidth) (w : Word) : DecodedStatus where
  pressed := w.getLsbD 24
  released := w.getLsbD 25
  moved := w.getLsbD 26
  position := (w <<< W.sxShift).sshiftRight W.sxShift

/-- The word a capture composes from a raw status and a raw position (42_capture.md R140 step 2, R141). -/
def captureWord (W : PosWidth) (status pos : Word) : Word :=
  encodeStatus W (status.getLsbD 0) (status.getLsbD 1) (status.getLsbD poschgBit) pos

/-- The value a capture acknowledges: the PRESS and RELEASE bits of its status read (R140 step 4, R144). -/
def captureAck (status : Word) : Word := (status.extractLsb' 0 2).setWidth 32

end Machine

end Sys2Proof
end

