-- ==== Sys2Proof/Machine/Ops.lean ====
section
/-! DEFINITION. The primitives of the rules' pseudocode (00_scope.md R13), the status queue (40_queue.md R100 to R103) and the status
capture (42_capture.md R140), each once. The block takes no exception (60_exceptions.md R200): its one deferred error is
`raiseQueueFull` (R202). -/

namespace Sys2Proof.Machine

/-! Primitives (R13). -/

/-- What the device presents to the next read: the next draw, or the free value when none is listed (R56, R57; log 2). -/
def State.presented (s : State) : Word :=
  match s.draws with
  | v :: _ => v
  | [] => Config.deviceRead s.drawCount

/-- After `MemRead(off, 4)`, whose value is `s.presented`: the draw is used up and the read is recorded (R54, R65). -/
def memRead (off : Nat) (s : State) : State :=
  { s with draws := s.draws.tail, drawCount := s.drawCount + 1, trace := s.trace ++ [.read off s.presented] }

/-- `MemWrite(off, 4, v)` (R54, R65). -/
def memWrite (off : Nat) (v : Word) (s : State) : State :=
  { s with trace := s.trace ++ [.write off v] }

/-- `notify(ch, id)` (60_exceptions.md R206). -/
def notify (ch : Channel) (id : Word) (s : State) : State :=
  { s with trace := s.trace ++ [.notify ch id] }

/-- A notification on a channel with this handle, if one is installed (R33, R206). -/
def notifyIfInstalled (ch : Channel) (id : Word) (s : State) : State :=
  if id ≠ 0#32 then notify ch id s else s

/-- The open instance becomes i. -/
def State.setInst (s : State) (i : Instance) : State := { s with inst := some i }

/-- `respond(res, data)`: the command ends and returns these (R76). -/
def respond (res : ResultCode) (data : Word) (s : State) : Host.Outcome State Fault Refusal :=
  .next { s with response := some { res := res, data := data } }

/-- The first line of every rule but OPEN's and QUERY_INFO's: "if life != OPEN: refuse(not-open)" (46_lifecycle.md R192). -/
def whenOpen (s : State) (body : Instance → Host.Outcome State Fault Refusal) : Host.Outcome State Fault Refusal :=
  match s.inst with
  | none => .refused .notOpen
  | some i => body i

/-! Queue storage (R25, R64). -/

/-- Indices strictly rising from above `lo`: the canonical form, after a first index. -/
def slotsRiseFrom (lo : Nat) : Slots → Bool
  | [] => true
  | (k, _) :: rest => decide (lo ≤ k) && slotsRiseFrom (k + 1) rest

/-- The canonical form of the storage: indices strictly rising, so that equal storage is equal data. -/
def Slots.wf (m : Slots) : Bool := slotsRiseFrom 0 m

/-- The word a push since OPEN has left in slot k, if any. -/
def slotLookup : Slots → Nat → Option Word
  | [], _ => none
  | (j, v) :: rest, k => if j = k then some v else slotLookup rest k

/-- `slot[k] <- v`, keeping the canonical form. -/
def slotWrite : Slots → Nat → Word → Slots
  | [], k, v => [(k, v)]
  | (j, u) :: rest, k, v =>
    if k < j then (k, v) :: (j, u) :: rest
    else if k = j then (k, v) :: rest
    else (j, u) :: slotWrite rest k v

/-- `slot[k]` as read after the n-th OPEN: what a push wrote, or the free content of an unwritten slot (R25; log 4). -/
def slotRead (n : Nat) (m : Slots) (k : Nat) : Word :=
  (slotLookup m k).getD (Config.unwrittenSlot n k)

/-! The status queue. -/

/-- The next index, wrapping from N - 1 to 0 (R102, R103). -/
def Instance.nextIdx (i : Instance) (k : Nat) : Nat := (k + 1) % i.slotCount

/-- `Full()` (R100). -/
def Instance.full (i : Instance) : Bool := i.nextIdx i.inIdx == i.outIdx

/-- `Empty()` (R101). -/
def Instance.empty (i : Instance) : Bool := i.inIdx == i.outIdx

/-- `Push(w)` (R102): `none` is the pseudocode's false, with no state changed. -/
def push (i : Instance) (w : Word) : Option Instance :=
  if i.full then none
  else some { i with slots := slotWrite i.slots i.inIdx w, inIdx := i.nextIdx i.inIdx }

/-- `Pop()` after the n-th OPEN (R103): `none` when the queue is empty, with no state changed; the slot is not cleared. -/
def pop (n : Nat) (i : Instance) : Option (Word × Instance) :=
  if i.empty then none
  else some (slotRead n i.slots i.outIdx, { i with outIdx := i.nextIdx i.outIdx })

/-! The capture. -/

/-- What a capture returns to its command (R140). -/
inductive CaptureResult where
  | ok
  | queueFull
  deriving DecidableEq, Repr

/-- A capture's result, the instance it leaves and the state with its accesses recorded. -/
structure Captured where
  result : CaptureResult
  inst : Instance
  state : State
  deriving DecidableEq, Repr

/-- The deferred error (60_exceptions.md R202) with the fail-safe stop of 42_capture.md R143: the enables are kept. -/
def raiseQueueFull (i : Instance) : Instance :=
  { i with pendingError := .queueFull, irqActive := false }

/-- Steps 3 and 4 of a capture, with the composed word w and the value to acknowledge. -/
def captureStore (i : Instance) (w ack : Word) (s : State) : Captured :=
  if w = 0#32 then { result := .ok, inst := i, state := memWrite offIstat ack s }
  else
    match push i w with
    | some i' => { result := .ok, inst := i', state := memWrite offIstat ack s }
    | none => { result := .queueFull, inst := raiseQueueFull i, state := memWrite offIstat ack (memWrite offIen 0#32 s) }

/-- `Capture()` (R140): the status read, then the position read, then the writes (R145). -/
def capture (i : Instance) (s : State) : Captured :=
  let status := s.presented
  let s1 := memRead offIstat s
  let pos := s1.presented
  let s2 := memRead offPos s1
  captureStore i (captureWord s.params.posWidth status pos) (captureAck status) s2

end Sys2Proof.Machine
end

