-- ==== Sys2Proof/Machine/Configure.lean ====
section
/-! DEFINITION. The CONFIGURE options (45_configure.md R170 to R178). -/

namespace Sys2Proof.Machine

/-- `SetEventEnable(b, v)` (R170): ack first, then enable, when interrupts are active. -/
def setEventEnable (b : BitVec 4) (v : Word) (s : State) : Host.Outcome State Fault Refusal :=
  whenOpen s fun i =>
    let mask := if boolOperand v then i.enableMask ||| b else i.enableMask &&& ~~~b
    let s1 := s.setInst { i with enableMask := mask }
    if i.irqActive then respond .ok 0#32 (memWrite offIen (mask.setWidth 32) (memWrite offIstat (b.setWidth 32) s1))
    else respond .ok 0#32 s1

/-- The shared form of the two notifier options (R176, R177) on the handle held now: the new handle, or the error. -/
def changeNotifier (held id : Word) : Except ResultCode Word :=
  if boolOperand id then (if held ≠ 0#32 then .error .signalAlreadyInstalled else .ok id)
  else (if held = 0#32 then .error .signalNotInstalled else .ok 0#32)

/-- CFG.GLOBAL (R171). -/
def execCfgGlobal (v : Word) (s : State) : Host.Outcome State Fault Refusal :=
  whenOpen s fun i =>
    if boolOperand v then
      let s1 := memRead offPos (memWrite offIstat (evAll.setWidth 32) s)
      let s2 := memWrite offIen (i.enableMask.setWidth 32) s1
      respond .ok 0#32 (s2.setInst { i with irqActive := true })
    else respond .ok 0#32 ((memWrite offIen 0#32 s).setInst { i with irqActive := false })

/-- CFG.PRESS (R172). -/
def execCfgPress (v : Word) (s : State) : Host.Outcome State Fault Refusal := setEventEnable evPress v s

/-- CFG.RELEASE (R173). -/
def execCfgRelease (v : Word) (s : State) : Host.Outcome State Fault Refusal := setEventEnable evRelease v s

/-- CFG.UP (R174). -/
def execCfgUp (v : Word) (s : State) : Host.Outcome State Fault Refusal := setEventEnable evUp v s

/-- CFG.DOWN (R175). -/
def execCfgDown (v : Word) (s : State) : Host.Outcome State Fault Refusal := setEventEnable evDown v s

/-- CFG.PRNTF (R176). -/
def execCfgPrntf (id : Word) (s : State) : Host.Outcome State Fault Refusal :=
  whenOpen s fun i =>
    match changeNotifier i.prNotifier id with
    | .error e => respond e 0#32 s
    | .ok h => respond .ok 0#32 (s.setInst { i with prNotifier := h })

/-- CFG.MVNTF (R177). -/
def execCfgMvntf (id : Word) (s : State) : Host.Outcome State Fault Refusal :=
  whenOpen s fun i =>
    match changeNotifier i.moveNotifier id with
    | .error e => respond e 0#32 s
    | .ok h => respond .ok 0#32 (s.setInst { i with moveNotifier := h })

/-- CFG.UNKNOWN (R178). -/
def execCfgUnknown (s : State) : Host.Outcome State Fault Refusal :=
  whenOpen s fun _ => respond .unknownOption 0#32 s

end Sys2Proof.Machine
end

