-- ==== Sys2Proof/Machine/Interrupt.lean ====
section
/-! DEFINITION. SERVICE_INTERRUPT, the interrupt dispatch (43_dispatch.md R150). -/

namespace Sys2Proof.Machine

/-- `eff`: the currently enabled sources (R150, D20). -/
def Instance.effective (i : Instance) : BitVec 4 := if i.irqActive then i.enableMask else 0#4

/-- The end of a serviced dispatch: the interrupt is counted and reported as handled (R150). -/
def handled (i : Instance) (s : State) : Host.Outcome State Fault Refusal :=
  respond .ok 1#32 (s.setInst { i with irqCount := i.irqCount + 1#32 })

/-- The press/release branch, with the asserted enabled bits act of the dispatch's own status read (R150, R154). -/
def dispatchPressRelease (act : BitVec 4) (i : Instance) (s : State) : Host.Outcome State Fault Refusal :=
  let c := capture i s
  handled c.inst (memWrite offIstat ((act &&& evPR).setWidth 32) (notifyIfInstalled .pr c.inst.prNotifier c.state))

/-- The move branch (R150, R152): nothing is captured. -/
def dispatchMove (act : BitVec 4) (i : Instance) (s : State) : Host.Outcome State Fault Refusal :=
  handled i (memWrite offIstat ((act &&& evUD).setWidth 32) (notifyIfInstalled .move i.moveNotifier s))

/-- SERVICE_INTERRUPT (R150). -/
def execServiceInterrupt (s : State) : Host.Outcome State Fault Refusal :=
  whenOpen s fun i =>
    let act := latchBits s.presented &&& i.effective
    let s1 := memRead offIstat s
    if act = 0#4 then respond .ok 0#32 s1
    else if act &&& evPR ≠ 0#4 then dispatchPressRelease act i s1
    else dispatchMove act i s1

end Sys2Proof.Machine
end

