-- ==== Sys2Proof/Machine/Lifecycle.lean ====
section
/-! DEFINITION. OPEN, CLOSE and QUERY_INFO (46_lifecycle.md R190, R191, R193). -/

namespace Sys2Proof.Machine

/-- Every element's value after OPEN with N = d and initial enables en (10_state.md R38, R190). -/
def freshInstance (d : Nat) (en : BitVec 4) : Instance where
  slotCount := d
  slots := []
  inIdx := 0
  outIdx := 0
  enableMask := en
  irqActive := false
  pendingError := .none
  prNotifier := 0#32
  moveNotifier := 0#32
  irqCount := 0#32

/-- OPEN (R190). -/
def execOpen (en : BitVec 4) (depth : Word) (s : State) : Host.Outcome State Fault Refusal :=
  match s.inst with
  | some _ => .refused .alreadyOpen
  | none =>
    let d := depthOf depth
    if s.params.queueMaxDepth < d then respond .allocationFailure 0#32 s
    else
      let s1 := { s.setInst (freshInstance d en) with opens := s.opens + 1 }
      respond .ok (BitVec.ofNat 32 d) (memWrite offIen 0#32 s1)

/-- CLOSE (R191): every element loses its value (R39). -/
def execClose (s : State) : Host.Outcome State Fault Refusal :=
  whenOpen s fun _ => respond .ok 0#32 { memWrite offIen 0#32 s with inst := none }

/-- QUERY_INFO (R193): in either lifecycle state. -/
def execQueryInfo (s : State) : Host.Outcome State Fault Refusal :=
  respond .ok descriptorWord s

end Sys2Proof.Machine
end

