-- ==== Sys2Proof/Machine/Status.lean ====
section
/-! DEFINITION. READ_STATUS (44_status_read.md R160). -/

namespace Sys2Proof.Machine

/-- Steps 3 and 4 of READ_STATUS: NO_STATUS when the queue is empty, else the oldest word (R160). -/
def popAndRespond (i : Instance) (s : State) : Host.Outcome State Fault Refusal :=
  match pop s.opens i with
  | none => respond .noStatus 0#32 (s.setInst i)
  | some (w, i') => respond .ok w (s.setInst i')

/-- READ_STATUS (R160): a pending error first (R162), then a capture into an empty queue (R163), then the oldest word. -/
def execReadStatus (s : State) : Host.Outcome State Fault Refusal :=
  whenOpen s fun i =>
    match i.pendingError with
    | .queueFull => respond .queueFull 0#32 (s.setInst { i with pendingError := .none })
    | .none =>
      if i.empty then
        let c := capture i s
        popAndRespond c.inst c.state
      else popAndRespond i s

end Sys2Proof.Machine
end

