-- ==== Sys2Proof/Machine/Unsupported.lean ====
section
/-! DEFINITION. The four unsupported data operations (46_lifecycle.md R194 to R197). -/

namespace Sys2Proof.Machine

/-- "always fail": UNSUPPORTED_OPERATION while OPEN, with no state change and no access. -/
def unsupported (s : State) : Host.Outcome State Fault Refusal :=
  whenOpen s fun _ => respond .unsupportedOperation 0#32 s

/-- READ (R194). -/
def execRead (s : State) : Host.Outcome State Fault Refusal := unsupported s

/-- WRITE (R195). -/
def execWrite (s : State) : Host.Outcome State Fault Refusal := unsupported s

/-- BLOCK_READ (R196). -/
def execBlockRead (s : State) : Host.Outcome State Fault Refusal := unsupported s

/-- BLOCK_WRITE (R197). -/
def execBlockWrite (s : State) : Host.Outcome State Fault Refusal := unsupported s

end Sys2Proof.Machine
end

