-- ==== Sys2Proof/Syntax.lean ====
section
/-! DEFINITION. The commands of the block: one constructor per row of spec/opcode_table.json (30_encoding.md R72, R73). An
operand that the spec says a command ignores is no operand of its constructor (log 16). -/

namespace Sys2Proof

/-- A command as its operands are read (R71 to R75). -/
inductive Instr where
  /-- OPEN (R190): initial enables OPT[3:0], requested depth VAL. -/
  | openInst (en : BitVec 4) (depth : Word)
  /-- CLOSE (R191). -/
  | close
  /-- CFG.GLOBAL (R171): the global interrupt enable. -/
  | cfgGlobal (v : Word)
  /-- CFG.PRESS (R172): the press interrupt enable. -/
  | cfgPress (v : Word)
  /-- CFG.RELEASE (R173): the release interrupt enable. -/
  | cfgRelease (v : Word)
  /-- CFG.UP (R174): the move-up interrupt enable. -/
  | cfgUp (v : Word)
  /-- CFG.DOWN (R175): the move-down interrupt enable. -/
  | cfgDown (v : Word)
  /-- CFG.PRNTF (R176): install (or, with 0, remove) the press/release notifier. -/
  | cfgPrntf (id : Word)
  /-- CFG.MVNTF (R177): install (or, with 0, remove) the move notifier. -/
  | cfgMvntf (id : Word)
  /-- CFG.UNKNOWN (R178): an unrecognized option code OPT, 0x07 to 0xFF. -/
  | cfgUnknown (opt : BitVec 8)
  /-- READ_STATUS (R160). -/
  | readStatus
  /-- SERVICE_INTERRUPT (R150). -/
  | serviceInterrupt
  /-- QUERY_INFO (R193). -/
  | queryInfo
  /-- READ, unsupported (R194). -/
  | read
  /-- WRITE, unsupported (R195). -/
  | write
  /-- BLOCK_READ, unsupported (R196). -/
  | blockRead
  /-- BLOCK_WRITE, unsupported (R197). -/
  | blockWrite
  deriving DecidableEq, Repr

end Sys2Proof
end

