-- ==== Sys2Proof/Machine/Dispatch.lean ====
section
/-! DEFINITION. Which meaning each command has: one arm per constructor of Instr. -/

namespace Sys2Proof.Machine

/-- The command i performed by the block in state s, as one indivisible step (00_scope.md R17). -/
def exec (i : Instr) (s : State) : Host.Outcome State Fault Refusal :=
  match i with
  | .openInst en depth => Sys2Proof.Machine.execOpen en depth s
  | .close => Sys2Proof.Machine.execClose s
  | .cfgGlobal v => Sys2Proof.Machine.execCfgGlobal v s
  | .cfgPress v => Sys2Proof.Machine.execCfgPress v s
  | .cfgRelease v => Sys2Proof.Machine.execCfgRelease v s
  | .cfgUp v => Sys2Proof.Machine.execCfgUp v s
  | .cfgDown v => Sys2Proof.Machine.execCfgDown v s
  | .cfgPrntf id => Sys2Proof.Machine.execCfgPrntf id s
  | .cfgMvntf id => Sys2Proof.Machine.execCfgMvntf id s
  | .cfgUnknown _ => Sys2Proof.Machine.execCfgUnknown s
  | .readStatus => Sys2Proof.Machine.execReadStatus s
  | .serviceInterrupt => Sys2Proof.Machine.execServiceInterrupt s
  | .queryInfo => Sys2Proof.Machine.execQueryInfo s
  | .read => Sys2Proof.Machine.execRead s
  | .write => Sys2Proof.Machine.execWrite s
  | .blockRead => Sys2Proof.Machine.execBlockRead s
  | .blockWrite => Sys2Proof.Machine.execBlockWrite s

end Sys2Proof.Machine
end

