-- ==== Sys2Proof/WellFormed.lean ====
section
/-! DEFINITION. Which terms of `Instr` stand for a command word. -/

namespace Sys2Proof

/-- An `Instr` that some command word decodes to: the option of CFG.UNKNOWN is one of 0x07 to 0xFF (30_encoding.md R73);
every other operand may take every value of its width. -/
def Instr.wellFormed : Instr → Bool
  | .cfgUnknown opt => decide (7 ≤ opt.toNat)
  | .openInst _ _ | .close | .cfgGlobal _ | .cfgPress _ | .cfgRelease _ | .cfgUp _ | .cfgDown _ | .cfgPrntf _
  | .cfgMvntf _ | .readStatus | .serviceInterrupt | .queryInfo | .read | .write | .blockRead | .blockWrite => true

end Sys2Proof
end

