-- ==== Sys2Proof/Decode.lean ====
section
/-! DEFINITION. The decoder of the command port (30_encoding.md R71 to R75, R78, R85), then the encoder and the assembly
lines (R86, R87). -/

namespace Sys2Proof

/-- Why a command word has no command. -/
inductive DecodeError where
  /-- OP is 0x00 or 0x0B to 0xFF (R78). -/
  | reservedOp (op : BitVec 8)
  deriving DecidableEq, Repr

/-- `OP = CW[15:8]` (R71). -/
def Command.op (c : Command) : BitVec 8 := c.cw.extractLsb' 8 8

/-- `OPT = CW[7:0]` (R71). -/
def Command.opt (c : Command) : BitVec 8 := c.cw.extractLsb' 0 8

/-- The CONFIGURE option that OPT selects, with its operand VAL (R73). -/
def decodeOption (opt : BitVec 8) (val : Word) : Instr :=
  match opt with
  | 0x00#8 => .cfgGlobal val
  | 0x01#8 => .cfgPress val
  | 0x02#8 => .cfgRelease val
  | 0x03#8 => .cfgUp val
  | 0x04#8 => .cfgDown val
  | 0x05#8 => .cfgPrntf val
  | 0x06#8 => .cfgMvntf val
  | _ => .cfgUnknown opt

/-- Decode a command (R72, R85): total on every command word; a reserved operation code is rejected by name (R78). -/
def decode (c : Command) : Except DecodeError Instr :=
  match c.op with
  | 0x01#8 => .ok (.openInst (c.opt.extractLsb' 0 4) c.val)
  | 0x02#8 => .ok .close
  | 0x03#8 => .ok (decodeOption c.opt c.val)
  | 0x04#8 => .ok .readStatus
  | 0x05#8 => .ok .serviceInterrupt
  | 0x06#8 => .ok .queryInfo
  | 0x07#8 => .ok .read
  | 0x08#8 => .ok .write
  | 0x09#8 => .ok .blockRead
  | 0x0A#8 => .ok .blockWrite
  | op => .error (.reservedOp op)

/-- The command whose bits are w, numbered as opcode_table.json numbers them: `CW` is bits 15 to 0, `VAL` counts on from bit 16;
bits from nbits up are 0. -/
def commandOfBits (nbits w : Nat) : Command :=
  let bits := w % 2 ^ nbits
  { cw := BitVec.ofNat 16 bits, val := BitVec.ofNat 32 (bits / 2 ^ 16) }

/-- What the decoder reads from an instruction whose bits are w (none where it refuses). -/
def decodeTableWord (nbits w : Nat) : Option Instr :=
  match decode (commandOfBits nbits w) with
  | .ok i => some i
  | .error _ => none

/-- The command word and operand of an instruction (R86): ignored bits and an ignored VAL are written 0. -/
def encode : Instr → Command
  | .openInst en depth => { cw := 0x0100#16 ||| en.setWidth 16, val := depth }
  | .close => { cw := 0x0200#16, val := 0 }
  | .cfgGlobal v => { cw := 0x0300#16, val := v }
  | .cfgPress v => { cw := 0x0301#16, val := v }
  | .cfgRelease v => { cw := 0x0302#16, val := v }
  | .cfgUp v => { cw := 0x0303#16, val := v }
  | .cfgDown v => { cw := 0x0304#16, val := v }
  | .cfgPrntf id => { cw := 0x0305#16, val := id }
  | .cfgMvntf id => { cw := 0x0306#16, val := id }
  | .cfgUnknown opt => { cw := 0x0300#16 ||| opt.setWidth 16, val := 0 }
  | .readStatus => { cw := 0x0400#16, val := 0 }
  | .serviceInterrupt => { cw := 0x0500#16, val := 0 }
  | .queryInfo => { cw := 0x0600#16, val := 0 }
  | .read => { cw := 0x0700#16, val := 0 }
  | .write => { cw := 0x0800#16, val := 0 }
  | .blockRead => { cw := 0x0900#16, val := 0 }
  | .blockWrite => { cw := 0x0A00#16, val := 0 }

/-- The mnemonic of a command's row in opcode_table.json (R72, R73). -/
def Instr.mnemonic : Instr → String
  | .openInst _ _ => "OPEN"
  | .close => "CLOSE"
  | .cfgGlobal _ => "CFG.GLOBAL"
  | .cfgPress _ => "CFG.PRESS"
  | .cfgRelease _ => "CFG.RELEASE"
  | .cfgUp _ => "CFG.UP"
  | .cfgDown _ => "CFG.DOWN"
  | .cfgPrntf _ => "CFG.PRNTF"
  | .cfgMvntf _ => "CFG.MVNTF"
  | .cfgUnknown _ => "CFG.UNKNOWN"
  | .readStatus => "READ_STATUS"
  | .serviceInterrupt => "SERVICE_INTERRUPT"
  | .queryInfo => "QUERY_INFO"
  | .read => "READ"
  | .write => "WRITE"
  | .blockRead => "BLOCK_READ"
  | .blockWrite => "BLOCK_WRITE"

/-- One pattern of opcode_table.json: the words whose bits under the mask are those of the pattern. -/
structure OpcodeRow where
  mnemonic : String
  pattern : CmdWord
  mask : CmdWord
  deriving DecidableEq, Repr

/-- A command word is one of a row's words. -/
def OpcodeRow.covers (r : OpcodeRow) (cw : CmdWord) : Bool := (cw &&& r.mask) == r.pattern

/-- Two rows share no command word when some bit that both fix is fixed differently. -/
def OpcodeRow.disjoint (a b : OpcodeRow) : Bool := ((a.pattern ^^^ b.pattern) &&& a.mask &&& b.mask) != 0

/-- opcode_table.json: every row's match and mask; CFG.UNKNOWN has the table's six ranges. -/
def opcodeTable : List OpcodeRow :=
  [⟨"OPEN", 0x0100, 0xFF00⟩, ⟨"CLOSE", 0x0200, 0xFF00⟩, ⟨"CFG.GLOBAL", 0x0300, 0xFFFF⟩, ⟨"CFG.PRESS", 0x0301, 0xFFFF⟩,
   ⟨"CFG.RELEASE", 0x0302, 0xFFFF⟩, ⟨"CFG.UP", 0x0303, 0xFFFF⟩, ⟨"CFG.DOWN", 0x0304, 0xFFFF⟩, ⟨"CFG.PRNTF", 0x0305, 0xFFFF⟩,
   ⟨"CFG.MVNTF", 0x0306, 0xFFFF⟩, ⟨"CFG.UNKNOWN", 0x0307, 0xFFFF⟩, ⟨"CFG.UNKNOWN", 0x0308, 0xFFF8⟩] ++
  [⟨"CFG.UNKNOWN", 0x0310, 0xFFF0⟩, ⟨"CFG.UNKNOWN", 0x0320, 0xFFE0⟩, ⟨"CFG.UNKNOWN", 0x0340, 0xFFC0⟩,
   ⟨"CFG.UNKNOWN", 0x0380, 0xFF80⟩, ⟨"READ_STATUS", 0x0400, 0xFF00⟩, ⟨"SERVICE_INTERRUPT", 0x0500, 0xFF00⟩,
   ⟨"QUERY_INFO", 0x0600, 0xFF00⟩, ⟨"READ", 0x0700, 0xFF00⟩, ⟨"WRITE", 0x0800, 0xFF00⟩, ⟨"BLOCK_READ", 0x0900, 0xFF00⟩,
   ⟨"BLOCK_WRITE", 0x0A00, 0xFF00⟩]

/-- The mnemonics of the assembly syntax (R86) and the two pseudo-commands that are one command each (R87). -/
inductive AsmName where
  | openInst | close | cfgGlobal | cfgPress | cfgRelease | cfgUp | cfgDown | cfgPrntf | cfgMvntf
  /-- `CFG #opt, v`: any option by number. -/
  | cfg
  | readStatus | serviceInterrupt | queryInfo | read | write | blockRead | blockWrite
  /-- `ENABLE` = `CFG.GLOBAL 1`. -/
  | enable
  /-- `DISABLE` = `CFG.GLOBAL 0`. -/
  | disable
  deriving DecidableEq, Repr

/-- How a line writes the mnemonic (R86, R87). -/
def AsmName.text : AsmName → String
  | .openInst => "OPEN" | .close => "CLOSE" | .cfgGlobal => "CFG.GLOBAL" | .cfgPress => "CFG.PRESS"
  | .cfgRelease => "CFG.RELEASE" | .cfgUp => "CFG.UP" | .cfgDown => "CFG.DOWN" | .cfgPrntf => "CFG.PRNTF"
  | .cfgMvntf => "CFG.MVNTF" | .cfg => "CFG" | .readStatus => "READ_STATUS" | .serviceInterrupt => "SERVICE_INTERRUPT"
  | .queryInfo => "QUERY_INFO" | .read => "READ" | .write => "WRITE" | .blockRead => "BLOCK_READ"
  | .blockWrite => "BLOCK_WRITE" | .enable => "ENABLE" | .disable => "DISABLE"

/-- The n-th operand of a line; an omitted operand is 0 (R86). -/
def asmOperand (operands : List Word) (n : Nat) : Word := operands.getD n 0

/-- The command a line assembles to: its mnemonic, then its operands in the order of R86 (OPEN: depth, en; CFG: #opt, v). -/
def assemble (name : AsmName) (operands : List Word) : Command :=
  match name with
  | .openInst => { cw := 0x0100#16 ||| ((asmOperand operands 1).extractLsb' 0 4).setWidth 16, val := asmOperand operands 0 }
  | .close => { cw := 0x0200#16, val := 0 }
  | .cfgGlobal => { cw := 0x0300#16, val := asmOperand operands 0 }
  | .cfgPress => { cw := 0x0301#16, val := asmOperand operands 0 }
  | .cfgRelease => { cw := 0x0302#16, val := asmOperand operands 0 }
  | .cfgUp => { cw := 0x0303#16, val := asmOperand operands 0 }
  | .cfgDown => { cw := 0x0304#16, val := asmOperand operands 0 }
  | .cfgPrntf => { cw := 0x0305#16, val := asmOperand operands 0 }
  | .cfgMvntf => { cw := 0x0306#16, val := asmOperand operands 0 }
  | .cfg => { cw := 0x0300#16 ||| ((asmOperand operands 0).extractLsb' 0 8).setWidth 16, val := asmOperand operands 1 }
  | .readStatus => { cw := 0x0400#16, val := 0 }
  | .serviceInterrupt => { cw := 0x0500#16, val := 0 }
  | .queryInfo => { cw := 0x0600#16, val := 0 }
  | .read => { cw := 0x0700#16, val := 0 }
  | .write => { cw := 0x0800#16, val := 0 }
  | .blockRead => { cw := 0x0900#16, val := 0 }
  | .blockWrite => { cw := 0x0A00#16, val := 0 }
  | .enable => { cw := 0x0300#16, val := 1 }
  | .disable => { cw := 0x0300#16, val := 0 }

end Sys2Proof
end

