-- ==== Sys2Proof/Machine/Fetch.lean ====
section
/-! DEFINITION. Taking the next command from the command port (10_state.md R22, 30_encoding.md R70). -/

namespace Sys2Proof.Machine

/-- What the command port presents (R22, R78, R230). -/
inductive Fetched where
  /-- No command: the block performs nothing. -/
  | idle
  /-- A command to perform, in the state whose port no longer holds it. -/
  | run (i : Instr) (s : State)
  /-- A command word with no meaning. -/
  | refuse (r : Refusal)
  deriving DecidableEq, Repr

/-- The refusal of a command word that does not decode (R78). -/
def refusalOf : DecodeError → Refusal
  | .reservedOp op => .reservedOp op

/-- The oldest command of the port, decoded (R85). -/
def fetch (s : State) : Fetched :=
  match s.port with
  | [] => .idle
  | c :: rest =>
    match decode c with
    | .ok i => .run i { s with port := rest }
    | .error e => .refuse (refusalOf e)

end Sys2Proof.Machine
end

