-- ==== Sys2Proof/Machine/Step.lean ====
section
/-! DEFINITION. One step of the block: one command (00_scope.md R17), or nothing while no command waits (R230). -/

namespace Sys2Proof.Machine

/-- One step. -/
def step (s : State) : Host.Outcome State Fault Refusal :=
  match fetch s with
  | .idle => .next s
  | .run i s' => exec i s'
  | .refuse r => .refused r

/-- s with the command whose bits are w presented next on the command port, before any command that waits (log 5). -/
def State.withFetchWord (s : State) (nbits w : Nat) : State :=
  { s with port := commandOfBits nbits w :: s.port }

end Sys2Proof.Machine
end

