-- ==== Sys2Proof/Machine/Pseudo.lean ====
section
/-! DEFINITION. The pseudo-command DRAIN, a loop of the host and not one command (30_encoding.md R87). -/

namespace Sys2Proof.Machine

/-- What a host keeps of a DRAIN: the words in the order returned, whether a QUEUE_FULL was met, and the state it ends in. -/
structure Drained where
  words : List Word
  metQueueFull : Bool
  state : State
  deriving DecidableEq, Repr

/-- `DRAIN`: READ_STATUS repeated until NO_STATUS, at most `fuel` times; a QUEUE_FULL met on the way is kept and the loop goes on
(R87). `none` when the fuel runs out first or a READ_STATUS is refused (log 19). -/
def drain : Nat → State → Option Drained
  | 0, _ => none
  | fuel + 1, s =>
    match exec .readStatus s with
    | .next t =>
      match t.response with
      | some { res := .noStatus, data := _ } => some { words := [], metQueueFull := false, state := t }
      | some { res := .ok, data := w } => (drain fuel t).map fun d => { d with words := w :: d.words }
      | some { res := .queueFull, data := _ } => (drain fuel t).map fun d => { d with metQueueFull := true }
      | _ => none
    | .fault _ => none
    | .refused _ => none

end Sys2Proof.Machine
end

