-- ==== Sys2Proof/Machine/RefDevice.lean ====
section
/-! DEFINITION. The reference device model (60_exceptions.md R214): non-normative, a test harness for the block and not part of it
(log 17). No step of the block reads or writes it; it says which traces a device of this kind allows. -/

namespace Sys2Proof.Machine

/-- The device's state (R214). -/
structure RefDevice where
  /-- `L[3:0]`, the latches. -/
  latches : BitVec 4
  /-- `C`, the position-changed bit. -/
  changed : Bool
  /-- `cnt`, the position counter. -/
  cnt : Word
  /-- `E[3:0]`, the enables. -/
  enables : BitVec 4
  deriving DecidableEq, Repr

/-- What the wheel and the button do, at any time between two accesses (R214). -/
inductive EnvStep where
  | press
  | release
  | up (k : Word)
  | down (k : Word)
  deriving DecidableEq, Repr

/-- The device after an environment step: latches are set whatever the enables hold (R214). -/
def RefDevice.env (d : RefDevice) : EnvStep → RefDevice
  | .press => { d with latches := d.latches ||| evPress }
  | .release => { d with latches := d.latches ||| evRelease }
  | .up k => { d with latches := d.latches ||| evUp, cnt := d.cnt + k, changed := true }
  | .down k => { d with latches := d.latches ||| evDown, cnt := d.cnt - k, changed := true }

/-- What a status read returns: `zext_32(L) | (C << 4)` (R214). -/
def RefDevice.statusWord (d : RefDevice) : Word :=
  d.latches.setWidth 32 ||| (if d.changed then 1#32 <<< poschgBit else 0#32)

/-- The device after an event of the block, or `none` where this device could not have taken part in it: a read returns what the
device presents (R214). -/
def RefDevice.access (d : RefDevice) : Event → Option RefDevice
  | .read off v =>
    if off = offIstat then (if v = d.statusWord then some d else none)
    else if off = offPos then (if v = d.cnt then some { d with cnt := 0#32, changed := false } else none)
    else none
  | .write off v =>
    if off = offIstat then some { d with latches := d.latches &&& ~~~(v.extractLsb' 0 4) }
    else if off = offIen then some { d with enables := v.extractLsb' 0 4 }
    else none
  | .notify _ _ => some d

/-- The device after a run of events with no environment step between them. -/
def RefDevice.replay (d : RefDevice) : List Event → Option RefDevice
  | [] => some d
  | e :: es =>
    match d.access e with
    | some d' => d'.replay es
    | none => none

/-- The interrupt line is asserted while `(L & E) != 0` (R204, R214). -/
def RefDevice.line (d : RefDevice) : Bool := (d.latches &&& d.enables) != 0#4

end Sys2Proof.Machine
end

