-- ==== Sys2Proof/Safety.lean ====
section
/-! DEFINITION. What counts as a sound state and a legal access, in the spec's terms: the queue's bounds and content (10_state.md R24 to R28),
the hardware mirror (R31), the legal status words (30_encoding.md R80, R81), the legal accesses (20_memory.md R51 to R53). -/

namespace Sys2Proof.Machine

/-- The value the device presents to the k-th next read (0 is the next), whatever register it reads (R57; log 2). -/
def readValue (s : State) (k : Nat) : Word := (s.draws[k]?).getD (Config.deviceRead (s.drawCount + k))

/-- `count = (in - out) mod N` (R28). -/
def Instance.count (i : Instance) : Nat := (i.inIdx + i.slotCount - i.outIdx) % i.slotCount

/-- The queue's content, oldest first: `slot[out], slot[(out+1) mod N], ...`, of length `count` (R28), as read after the n-th OPEN. -/
def Instance.contents (n : Nat) (i : Instance) : List Word :=
  (List.range i.count).map fun k => slotRead n i.slots ((i.outIdx + k) % i.slotCount)

/-- The bounds of R24, R26 and R27, the canonical form of the storage, and: every queued slot has been written since OPEN (R25). -/
structure QueueOk (p : Params) (i : Instance) : Prop where
  minSlots : 2 ≤ i.slotCount
  maxSlots : i.slotCount ≤ p.queueMaxDepth
  inBound : i.inIdx < i.slotCount
  outBound : i.outIdx < i.slotCount
  canonical : i.slots.wf = true
  slotBound : ∀ e ∈ i.slots, e.1 < i.slotCount
  written : ∀ k < i.count, (slotLookup i.slots ((i.outIdx + k) % i.slotCount)).isSome = true

/-- The queue of an open instance is sound. -/
def QueueInv (s : State) : Prop := ∀ i, s.inst = some i → QueueOk s.params i

/-- The last value written to the device's interrupt-enable register; while OPEN it was written since OPEN, since OPEN itself
writes it (`ienShadow`, R31). -/
def ienShadow (t : List Event) : Option Word :=
  t.foldl (fun last e => match e with
    | .write off v => if off = offIen then some v else last
    | .read _ _ => last
    | .notify _ _ => last) none

/-- The hardware-mirror invariant (R31). -/
def Mirror (s : State) : Prop :=
  ∀ i, s.inst = some i → ienShadow s.trace = some (if i.irqActive then i.enableMask.setWidth 32 else 0#32)

/-- A status word the block may queue (R80, R81): at least one event flag, zeros where the layout has them, and no position without
MOVED. -/
structure LegalWord (W : PosWidth) (w : Word) : Prop where
  topZero : w.extractLsb' 27 5 = 0#5
  hasFlag : w.getLsbD 24 || w.getLsbD 25 || w.getLsbD 26
  gapZero : W = .w16 → w.extractLsb' 16 8 = 0#8
  posZero : w.getLsbD 26 = false → w &&& W.mask = 0#32

/-- Every queued word is legal (R81). -/
def WordsLegal (s : State) : Prop :=
  ∀ i, s.inst = some i → ∀ w ∈ i.contents s.opens, LegalWord s.params.posWidth w

/-- An access at an offset and in a direction of R51, with 0 in every bit the block does not use (R52, R84); a notification of an
installed handle (R206). -/
def legalEvent : Event → Prop
  | .read off _ => off = offPos ∨ off = offIstat
  | .write off v => (off = offIen ∨ off = offIstat) ∧ v.toNat < 16
  | .notify _ id => id ≠ 0#32

/-- The event is a device access. -/
def Event.isAccess : Event → Bool
  | .read _ _ => true
  | .write _ _ => true
  | .notify _ _ => false

/-- The value of a device read, if the event is one. -/
def Event.readWord : Event → Option Word
  | .read _ v => some v
  | .write _ _ => none
  | .notify _ _ => none

/-- The handle of a notifier register of an open instance (R33). -/
def Instance.notifier (i : Instance) : Channel → Word
  | .pr => i.prNotifier
  | .move => i.moveNotifier

/-- An operation of a host-independent queue user: push a word or pop one. -/
inductive QueueOp where
  | push (w : Word)
  | pop
  deriving DecidableEq, Repr

/-- The words that the successful pops of a sequence of operations return, and the queue they leave. -/
def runQueue (n : Nat) : List QueueOp → Instance → List Word × Instance
  | [], i => ([], i)
  | .push w :: ops, i => runQueue n ops ((push i w).getD i)
  | .pop :: ops, i =>
    match pop n i with
    | none => runQueue n ops i
    | some (w, i') => let r := runQueue n ops i'; (w :: r.1, r.2)

/-- The same operations on a plain list of at most cap words: a push appends if there is room, a pop takes the head. -/
def runList (cap : Nat) : List QueueOp → List Word → List Word × List Word
  | [], q => ([], q)
  | .push w :: ops, q => runList cap ops (if q.length < cap then q ++ [w] else q)
  | .pop :: ops, [] => runList cap ops []
  | .pop :: ops, w :: q => let r := runList cap ops q; (w :: r.1, r.2)

/-- Pushes in a row, `none` as soon as one fails. -/
def pushAll : List Word → Instance → Option Instance
  | [], i => some i
  | w :: ws, i => (push i w).bind (pushAll ws)

/-- k pops in a row, each with the word it returned or none. -/
def popAll (n : Nat) : Nat → Instance → List (Option Word) × Instance
  | 0, i => ([], i)
  | k + 1, i =>
    match pop n i with
    | none => let r := popAll n k i; (none :: r.1, r.2)
    | some (w, i') => let r := popAll n k i'; (some w :: r.1, r.2)

/-- An outcome with its next state, if any, changed by f. -/
def mapNext (f : State → State) : Host.Outcome State Fault Refusal → Host.Outcome State Fault Refusal
  | .next s => .next (f s)
  | .fault r => .fault r
  | .refused r => .refused r

/-- s with another byte order of the device register block (R52). -/
def State.withByteOrder (b : ByteOrder) (s : State) : State :=
  { s with params := { s.params with devByteOrder := b } }

end Sys2Proof.Machine
end

