-- ==== Sys2Proof/Certificates/Slice0/Obligations.lean ====
section
/-! DEFINITION. The statements for the provers, file by file of spec/. A statement about `exec` gives the whole next state; where a command
reads the device, the model's own fields `draws` and `drawCount` are left to `ReadsTakeTheDrawsInOrder`, and `opens` is
left open. `readValue s k` is the value the device presents to the k-th next read: it may be any word. -/

open Sys2Proof Sys2Proof.Machine

/-! Encoding (30_encoding.md). -/

/-- R72, R73, R85, R86: decoding the command word of a well-formed command gives it back, every operand at every value. -/
def Obligations.CommandWordsRoundTrip : Prop :=
  ∀ i : Instr, i.wellFormed = true → decode (encode i) = .ok i

/-- R71, R74, R85: what decodes is well-formed, and its encoding has every bit of the command that the command does not ignore. -/
def Obligations.EncodingRecoversEveryMeaningfulBit : Prop :=
  ∀ (c : Command) (i : Instr), decode c = .ok i →
    i.wellFormed = true ∧ (encode i).op = c.op ∧
    (c.op = 0x03#8 → (encode i).opt = c.opt) ∧
    (c.op = 0x01#8 → (encode i).opt.extractLsb' 0 4 = c.opt.extractLsb' 0 4) ∧
    (c.op = 0x01#8 ∨ (c.op = 0x03#8 ∧ c.opt.toNat < 7) → (encode i).val = c.val)

/-- R85, over the rows of the opcode table (R72, R73): a command word that a row covers decodes to that row's command, any other is
rejected by name, and VAL never decides which command it is. -/
def Obligations.DecodingFollowsTheOpcodeTable : Prop :=
  ∀ (cw : CmdWord) (v v' : Word),
    (∀ r ∈ opcodeTable, r.covers cw = true → ∃ i, decode ⟨cw, v⟩ = .ok i ∧ i.mnemonic = r.mnemonic) ∧
    ((∀ r ∈ opcodeTable, r.covers cw = false) → decode ⟨cw, v⟩ = .error (.reservedOp (cw.extractLsb' 8 8))) ∧
    (decode ⟨cw, v⟩).map Instr.mnemonic = (decode ⟨cw, v'⟩).map Instr.mnemonic

/-- R78: a reserved operation code is refused by name in every state; an unlisted CONFIGURE option is defined. -/
def Obligations.ReservedOperationCodesAreRefused : Prop :=
  ∀ (s : State) (c : Command) (rest : List Command), s.port = c :: rest →
    (c.op = 0x00#8 ∨ 0x0B ≤ c.op.toNat → step s = .refused (.reservedOp c.op)) ∧
    (∀ i, s.inst = some i → c.op = 0x03#8 → 7 ≤ c.opt.toNat →
      step s = .next { s with port := rest, response := some ⟨.unknownOption, 0#32⟩ })

/-- R71 to R74, R86: words written out from the spec's encodings. -/
def Obligations.SampleCommandWordsDecode : Prop :=
  decode ⟨0x0103#16, 4#32⟩ = .ok (.openInst 0x3#4 4#32) ∧
  decode ⟨0x01F3#16, 5#32⟩ = .ok (.openInst 0x3#4 5#32) ∧
  decode ⟨0x0200#16, 0#32⟩ = .ok .close ∧
  decode ⟨0x0300#16, 1#32⟩ = .ok (.cfgGlobal 1#32) ∧
  decode ⟨0x0303#16, 7#32⟩ = .ok (.cfgUp 7#32) ∧
  decode ⟨0x0306#16, 9#32⟩ = .ok (.cfgMvntf 9#32) ∧
  decode ⟨0x0307#16, 1#32⟩ = .ok (.cfgUnknown 0x07#8) ∧
  decode ⟨0x03FF#16, 0#32⟩ = .ok (.cfgUnknown 0xFF#8) ∧
  decode ⟨0x0400#16, 0#32⟩ = .ok .readStatus ∧
  decode ⟨0x0500#16, 0#32⟩ = .ok .serviceInterrupt ∧
  decode ⟨0x0600#16, 0#32⟩ = .ok .queryInfo ∧
  decode ⟨0x0A00#16, 0#32⟩ = .ok .blockWrite

/-- R86, R87: every assembly line stands for the command it names, with its operands; an omitted operand is 0. -/
def Obligations.AssemblyLinesStandForTheirCommands : Prop :=
  (∀ depth en : Word, decode (assemble .openInst [depth, en]) = .ok (.openInst (en.extractLsb' 0 4) depth)) ∧
  (∀ v : Word,
    decode (assemble .cfgGlobal [v]) = .ok (.cfgGlobal v) ∧ decode (assemble .cfgPress [v]) = .ok (.cfgPress v) ∧
    decode (assemble .cfgRelease [v]) = .ok (.cfgRelease v) ∧ decode (assemble .cfgUp [v]) = .ok (.cfgUp v) ∧
    decode (assemble .cfgDown [v]) = .ok (.cfgDown v) ∧ decode (assemble .cfgPrntf [v]) = .ok (.cfgPrntf v) ∧
    decode (assemble .cfgMvntf [v]) = .ok (.cfgMvntf v)) ∧
  (∀ opt v : Word, decode (assemble .cfg [opt, v]) = decode ⟨0x03#8 ++ opt.extractLsb' 0 8, v⟩) ∧
  decode (assemble .close []) = .ok .close ∧ decode (assemble .readStatus []) = .ok .readStatus ∧
  decode (assemble .serviceInterrupt []) = .ok .serviceInterrupt ∧ decode (assemble .queryInfo []) = .ok .queryInfo ∧
  decode (assemble .read []) = .ok .read ∧ decode (assemble .write []) = .ok .write ∧
  decode (assemble .blockRead []) = .ok .blockRead ∧ decode (assemble .blockWrite []) = .ok .blockWrite ∧
  decode (assemble .enable []) = .ok (.cfgGlobal 1#32) ∧ decode (assemble .disable []) = .ok (.cfgGlobal 0#32) ∧
  (∀ name, assemble name [] = assemble name [0#32, 0#32]) ∧ (∀ name v, assemble name [v] = assemble name [v, 0#32])

/-- R17, R22, R230: a step performs the oldest waiting command and nothing else; with none waiting the block performs nothing. -/
def Obligations.StepPerformsTheOldestCommand : Prop :=
  ∀ s : State,
    (s.port = [] → step s = .next s) ∧
    (∀ c rest i, s.port = c :: rest → decode c = .ok i → step s = exec i { s with port := rest })

/-! The status word (30_encoding.md R79 to R81, 41_encoder.md). -/

/-- R79, R80: the layout of every word the encoder makes. -/
def Obligations.StatusWordLayout : Prop :=
  ∀ (W : PosWidth) (p r m : Bool) (pos : Word),
    let w := encodeStatus W p r m pos
    w.getLsbD 24 = p ∧ w.getLsbD 25 = r ∧ w.getLsbD 26 = m ∧ w.extractLsb' 27 5 = 0#5 ∧
    (W = .w16 → w.extractLsb' 16 8 = 0#8) ∧
    (∀ k < W.bits, w.getLsbD k = (m && pos.getLsbD k)) ∧
    (w = 0#32 ↔ p = false ∧ r = false ∧ m = false)

/-- R122: the round trip, for every flag triple and every position that fits in W bits. -/
def Obligations.StatusWordRoundTrip : Prop :=
  ∀ (W : PosWidth) (p r : Bool) (pos : Word),
    (-(2 : Int) ^ (W.bits - 1) ≤ pos.toInt → pos.toInt < (2 : Int) ^ (W.bits - 1) →
      decodeStatus W (encodeStatus W p r true pos) = ⟨p, r, true, pos⟩) ∧
    decodeStatus W (encodeStatus W p r false pos) = ⟨p, r, false, 0#32⟩

/-- R12, G1: the decoded position is the two's-complement reading of the low W bits. -/
def Obligations.PositionIsTwosComplement : Prop :=
  ∀ (W : PosWidth) (w : Word),
    (decodeStatus W w).position.toInt =
      if w.toNat % 2 ^ W.bits < 2 ^ (W.bits - 1) then ((w.toNat % 2 ^ W.bits : Nat) : Int)
      else ((w.toNat % 2 ^ W.bits : Nat) : Int) - (2 : Int) ^ W.bits

/-- R123, R124: the sign cases and the width cases, in numbers. -/
def Obligations.SignAndWidthCases : Prop :=
  encodeStatus .w16 false false true 0x00008000#32 = 0x04008000#32 ∧
  (decodeStatus .w16 0x04008000#32).position.toInt = -32768 ∧
  encodeStatus .w24 false false true 0x00800000#32 = 0x04800000#32 ∧
  (decodeStatus .w24 0x04800000#32).position.toInt = -8388608 ∧
  (decodeStatus .w16 (encodeStatus .w16 false false true 0#32)).position = 0#32 ∧
  (decodeStatus .w24 (encodeStatus .w24 false false true 0#32)).position = 0#32 ∧
  (decodeStatus .w24 0x04008000#32).position.toInt = 32768

/-! The status queue (10_state.md R24 to R28, 40_queue.md). -/

/-- R100, R101: when the queue is full and when it is empty, and that it is never both. -/
def Obligations.FullAndEmpty : Prop :=
  ∀ i : Instance,
    (i.full = true ↔ (i.inIdx + 1) % i.slotCount = i.outIdx) ∧ (i.empty = true ↔ i.inIdx = i.outIdx) ∧
    (2 ≤ i.slotCount → i.inIdx < i.slotCount → i.full = true → i.empty = false) ∧
    (∀ w i', i.slotCount = 2 → i.inIdx < 2 → i.empty = true → push i w = some i' → i'.full = true)

/-- A push into a queue with room appends the word and changes only `slot[in]` and `in`; into a full queue it fails (R102). Derived: that
N - 1 words fill the queue and that it never holds more is what the spec derives in R28 and R10, and the `QueueOk` of the result
carries the model's canonical form (log 4). -/
def Obligations.PushAppendsAtTheProducerIndex : Prop :=
  ∀ (p : Params) (n : Nat) (i : Instance) (w : Word), QueueOk p i →
    (i.count + 1 < i.slotCount →
      ∃ i', push i w = some i' ∧ QueueOk p i' ∧ i'.contents n = i.contents n ++ [w] ∧
        i' = { i with slots := i'.slots, inIdx := (i.inIdx + 1) % i.slotCount } ∧
        slotLookup i'.slots i.inIdx = some w ∧
        ∀ k, k ≠ i.inIdx → slotLookup i'.slots k = slotLookup i.slots k) ∧
    (i.count + 1 = i.slotCount → i.full = true ∧ push i w = none) ∧
    i.count + 1 ≤ i.slotCount

/-- R103, R28: a pop takes the oldest word, changes only `out`, and gives none exactly when the queue is empty. -/
def Obligations.PopTakesTheOldestWord : Prop :=
  ∀ (p : Params) (n : Nat) (i : Instance), QueueOk p i →
    (i.contents n = [] ↔ pop n i = none) ∧ (i.contents n = [] ↔ i.empty = true) ∧
    (∀ w ws, i.contents n = w :: ws →
      ∃ i', pop n i = some (w, i') ∧ QueueOk p i' ∧ i'.contents n = ws ∧
        i' = { i with outIdx := (i.outIdx + 1) % i.slotCount })

/-- R104: any sequence of pushes and pops acts on the ring as on a plain list of at most N - 1 words: the words popped are the words
pushed, in push order, each once. -/
def Obligations.QueueRefinesAList : Prop :=
  ∀ (p : Params) (n : Nat) (i : Instance) (ops : List QueueOp), QueueOk p i →
    (runQueue n ops i).1 = (runList (i.slotCount - 1) ops (i.contents n)).1 ∧
    (runQueue n ops i).2.contents n = (runList (i.slotCount - 1) ops (i.contents n)).2 ∧
    QueueOk p (runQueue n ops i).2

/-- R105: from an empty queue k pushes in a row succeed exactly for k up to N - 1, which fills it; k pops then return the words, and the
next returns none. -/
def Obligations.QueueHoldsOneLessThanItsSlots : Prop :=
  ∀ (p : Params) (n : Nat) (i : Instance) (ws : List Word), QueueOk p i → i.empty = true →
    (i.slotCount ≤ ws.length → pushAll ws i = none) ∧
    (ws.length < i.slotCount →
      ∃ i', pushAll ws i = some i' ∧ (ws.length + 1 = i.slotCount → i'.full = true) ∧
        popAll n (ws.length + 1) i' = (ws.map some ++ [none], (popAll n ws.length i').2) ∧
        (popAll n ws.length i').2.empty = true)

/-- R25, D41: no read of a queue that meets its invariant depends on the free content of unwritten slots. -/
def Obligations.UnwrittenSlotsAreNeverRead : Prop :=
  ∀ (p : Params) (n m : Nat) (i : Instance), QueueOk p i → i.contents n = i.contents m ∧ pop n i = pop m i

/-! Lifecycle (46_lifecycle.md, 70_reset_and_hazards.md). -/

/-- R190: OPEN whole: its encoding, its refusal, its failure, and every element's value after it; the content `m` of the queue storage is left
open, as R25 leaves it. -/
def Obligations.OpenCommand : Prop :=
  (∀ (opt : BitVec 8) (v : Word), decode ⟨0x01#8 ++ opt, v⟩ = .ok (.openInst (opt.extractLsb' 0 4) v)) ∧
  ∀ (s : State) (en : BitVec 4) (depth : Word),
    let d : Nat := if depth = 0#32 then 16 else if depth = 1#32 then 2 else depth.toNat
    (∀ i, s.inst = some i → exec (.openInst en depth) s = .refused .alreadyOpen) ∧
    (s.inst = none → s.params.queueMaxDepth < d →
      exec (.openInst en depth) s = .next { s with response := some ⟨.allocationFailure, 0#32⟩ }) ∧
    (s.inst = none → d ≤ s.params.queueMaxDepth →
      ∃ t m, exec (.openInst en depth) s = .next t ∧
        t = { s with
          inst := some { slotCount := d, slots := m, inIdx := 0, outIdx := 0, enableMask := en, irqActive := false,
                         pendingError := .none, prNotifier := 0#32, moveNotifier := 0#32, irqCount := 0#32 }
          opens := t.opens
          trace := s.trace ++ [.write 0x4 0#32]
          response := some ⟨.ok, BitVec.ofNat 32 d⟩ })

/-- R191, R39: CLOSE whole: one write of 0 to the enable register, and every element loses its value. -/
def Obligations.CloseCommand : Prop :=
  (∀ (opt : BitVec 8) (v : Word), decode ⟨0x02#8 ++ opt, v⟩ = .ok .close) ∧
  ∀ s : State,
    (s.inst = none → exec .close s = .refused .notOpen) ∧
    (∀ i, s.inst = some i →
      exec .close s =
        .next { s with inst := none, trace := s.trace ++ [.write 0x4 0#32], response := some ⟨.ok, 0#32⟩ })

/-- R193, R82, R83: QUERY_INFO answers the descriptor in both lifecycle states and changes nothing else. -/
def Obligations.QueryInfoCommand : Prop :=
  (∀ (opt : BitVec 8) (v : Word), decode ⟨0x06#8 ++ opt, v⟩ = .ok .queryInfo) ∧
  (∀ s : State, exec .queryInfo s = .next { s with response := some ⟨.ok, 0x03100101#32⟩ }) ∧
  descriptorWord.extractLsb' 0 8 = 1#8 ∧ descriptorWord.extractLsb' 8 8 = 1#8 ∧
  descriptorWord.extractLsb' 16 8 = 16#8 ∧ descriptorWord.getLsbD 24 = true ∧ descriptorWord.getLsbD 25 = true ∧
  descriptorWord.extractLsb' 26 6 = 0#6

/-- R194 to R197: the four data operations always fail, whatever their operands, with no state change and no access. -/
def Obligations.DataOperationsAreUnsupported : Prop :=
  (∀ (opt : BitVec 8) (v : Word),
    decode ⟨0x07#8 ++ opt, v⟩ = .ok .read ∧ decode ⟨0x08#8 ++ opt, v⟩ = .ok .write ∧
    decode ⟨0x09#8 ++ opt, v⟩ = .ok .blockRead ∧ decode ⟨0x0A#8 ++ opt, v⟩ = .ok .blockWrite) ∧
  ∀ (c : Instr) (s : State), c = .read ∨ c = .write ∨ c = .blockRead ∨ c = .blockWrite →
    (s.inst = none → exec c s = .refused .notOpen) ∧
    (∀ i, s.inst = some i → exec c s = .next { s with response := some ⟨.unsupportedOperation, 0#32⟩ })

/-- R192: while CLOSED every command but OPEN and QUERY_INFO is refused; while OPEN, OPEN is. -/
def Obligations.LifecycleRefusals : Prop :=
  (∀ (s : State) (c : Instr), s.inst = none → (∀ en depth, c ≠ .openInst en depth) → c ≠ .queryInfo →
    exec c s = .refused .notOpen) ∧
  (∀ (s : State) (i : Instance) (en : BitVec 4) (depth : Word), s.inst = some i →
    exec (.openInst en depth) s = .refused .alreadyOpen)

/-- R192, R200, R217: nothing else stops a command: no command faults, and the two refusals come only from the lifecycle. -/
def Obligations.OnlyTheLifecycleStopsACommand : Prop :=
  ∀ (c : Instr) (s : State),
    (∃ t, exec c s = .next t) ∨
    (exec c s = .refused .notOpen ∧ s.inst = none ∧ (∀ en depth, c ≠ .openInst en depth) ∧ c ≠ .queryInfo) ∨
    (exec c s = .refused .alreadyOpen ∧ s.inst ≠ none ∧ ∃ en depth, c = .openInst en depth)

/-- R232: after CLOSE and OPEN the instance is the one that an OPEN of a block that was never opened gives. -/
def Obligations.NothingOfAClosedInstanceSurvives : Prop :=
  ∀ (s t u fresh v : State) (i : Instance) (en : BitVec 4) (depth : Word), s.inst = some i →
    exec .close s = .next t → exec (.openInst en depth) t = .next u →
    fresh.inst = none → fresh.params = s.params → exec (.openInst en depth) fresh = .next v →
    u.inst = v.inst ∧ u.response = v.response

/-- R230, R20: after a hardware reset the block is CLOSED and has made no access. That no command waits, so that the block performs
nothing, is the model's choice (log 3 and 5). -/
def Obligations.ResetLeavesTheBlockClosed : Prop :=
  State.reset.inst = none ∧ State.reset.life = .closed ∧ State.reset.trace = [] ∧
  step State.reset = .next State.reset

/-- The invariants stated below hold after a hardware reset. -/
def Obligations.InvariantsHoldAtReset : Prop :=
  QueueInv State.reset ∧ Mirror State.reset ∧ WordsLegal State.reset

/-! Configuration (45_configure.md). -/

/-- R171: CFG.GLOBAL whole. -/
def Obligations.GlobalInterruptEnable : Prop :=
  (∀ v : Word, decode ⟨0x0300#16, v⟩ = .ok (.cfgGlobal v)) ∧
  ∀ (s : State) (v : Word),
    (s.inst = none → exec (.cfgGlobal v) s = .refused .notOpen) ∧
    (∀ i, s.inst = some i → v ≠ 0#32 →
      ∃ t, exec (.cfgGlobal v) s = .next t ∧
        t = { s with
          inst := some { i with irqActive := true }
          draws := t.draws
          drawCount := t.drawCount
          trace := s.trace ++ [.write 0x8 0xF#32, .read 0x0 (readValue s 0), .write 0x4 (i.enableMask.setWidth 32)]
          response := some ⟨.ok, 0#32⟩ }) ∧
    (∀ i, s.inst = some i → v = 0#32 →
      exec (.cfgGlobal v) s =
        .next { s with
          inst := some { i with irqActive := false }
          trace := s.trace ++ [.write 0x4 0#32]
          response := some ⟨.ok, 0#32⟩ })

/-- R170, R172 to R175: the four per-event options whole: one bit of the mask; when active, ack of that bit, then the whole mask. -/
def Obligations.PerEventInterruptEnables : Prop :=
  (∀ v : Word, decode ⟨0x0301#16, v⟩ = .ok (.cfgPress v) ∧ decode ⟨0x0302#16, v⟩ = .ok (.cfgRelease v) ∧
    decode ⟨0x0303#16, v⟩ = .ok (.cfgUp v) ∧ decode ⟨0x0304#16, v⟩ = .ok (.cfgDown v)) ∧
  ∀ (s : State) (v : Word) (c : Instr) (b : BitVec 4),
    (c = .cfgPress v ∧ b = 0x1#4) ∨ (c = .cfgRelease v ∧ b = 0x2#4) ∨ (c = .cfgUp v ∧ b = 0x4#4) ∨
      (c = .cfgDown v ∧ b = 0x8#4) →
    (s.inst = none → exec c s = .refused .notOpen) ∧
    (∀ i, s.inst = some i →
      let mask : BitVec 4 := if v = 0#32 then i.enableMask &&& ~~~b else i.enableMask ||| b
      exec c s =
        .next { s with
          inst := some { i with enableMask := mask }
          trace := s.trace ++
            (if i.irqActive then [.write 0x8 (b.setWidth 32), .write 0x4 (mask.setWidth 32)] else [])
          response := some ⟨.ok, 0#32⟩ })

/-- R176: CFG.PRNTF whole. -/
def Obligations.PressReleaseNotifierOption : Prop :=
  (∀ id : Word, decode ⟨0x0305#16, id⟩ = .ok (.cfgPrntf id)) ∧
  ∀ (s : State) (id : Word),
    (s.inst = none → exec (.cfgPrntf id) s = .refused .notOpen) ∧
    (∀ i, s.inst = some i →
      exec (.cfgPrntf id) s =
        if id ≠ 0#32 then
          if i.prNotifier ≠ 0#32 then .next { s with response := some ⟨.signalAlreadyInstalled, 0#32⟩ }
          else .next { s with inst := some { i with prNotifier := id }, response := some ⟨.ok, 0#32⟩ }
        else
          if i.prNotifier = 0#32 then .next { s with response := some ⟨.signalNotInstalled, 0#32⟩ }
          else .next { s with inst := some { i with prNotifier := 0#32 }, response := some ⟨.ok, 0#32⟩ })

/-- R177: CFG.MVNTF whole. -/
def Obligations.MoveNotifierOption : Prop :=
  (∀ id : Word, decode ⟨0x0306#16, id⟩ = .ok (.cfgMvntf id)) ∧
  ∀ (s : State) (id : Word),
    (s.inst = none → exec (.cfgMvntf id) s = .refused .notOpen) ∧
    (∀ i, s.inst = some i →
      exec (.cfgMvntf id) s =
        if id ≠ 0#32 then
          if i.moveNotifier ≠ 0#32 then .next { s with response := some ⟨.signalAlreadyInstalled, 0#32⟩ }
          else .next { s with inst := some { i with moveNotifier := id }, response := some ⟨.ok, 0#32⟩ }
        else
          if i.moveNotifier = 0#32 then .next { s with response := some ⟨.signalNotInstalled, 0#32⟩ }
          else .next { s with inst := some { i with moveNotifier := 0#32 }, response := some ⟨.ok, 0#32⟩ })

/-- R178: CFG.UNKNOWN whole. -/
def Obligations.UnknownOptionIsAnswered : Prop :=
  (∀ (opt : BitVec 8) (v : Word), 7 ≤ opt.toNat → decode ⟨0x03#8 ++ opt, v⟩ = .ok (.cfgUnknown opt)) ∧
  ∀ (s : State) (opt : BitVec 8),
    (s.inst = none → exec (.cfgUnknown opt) s = .refused .notOpen) ∧
    (∀ i, s.inst = some i → exec (.cfgUnknown opt) s = .next { s with response := some ⟨.unknownOption, 0#32⟩ })

/-! Capture (42_capture.md). -/

/-- R140, R141, R142, R144, R145: the capture whole, for every pair of values read and whatever the enables hold: the word composed, when it
is 0, what is pushed or dropped, what is acknowledged, and in which order. -/
def Obligations.CaptureOperation : Prop :=
  ∀ (s : State) (i : Instance),
    let status := readValue s 0
    let pos := readValue s 1
    let w := encodeStatus s.params.posWidth (status.getLsbD 0) (status.getLsbD 1) (status.getLsbD 4) pos
    let after (writes : List Event) : State :=
      { s with
        draws := (capture i s).state.draws
        drawCount := (capture i s).state.drawCount
        trace := s.trace ++ [.read 0x8 status, .read 0x0 pos] ++ writes }
    (w = 0#32 ↔ status.getLsbD 0 = false ∧ status.getLsbD 1 = false ∧ status.getLsbD 4 = false) ∧
    (w = 0#32 → capture i s = ⟨.ok, i, after [.write 0x8 (status &&& 3#32)]⟩) ∧
    (w ≠ 0#32 → (i.inIdx + 1) % i.slotCount ≠ i.outIdx →
      ∃ j, capture i s = ⟨.ok, j, after [.write 0x8 (status &&& 3#32)]⟩ ∧
        j = { i with slots := j.slots, inIdx := (i.inIdx + 1) % i.slotCount } ∧
        slotLookup j.slots i.inIdx = some w ∧ ∀ k, k ≠ i.inIdx → slotLookup j.slots k = slotLookup i.slots k) ∧
    (w ≠ 0#32 → (i.inIdx + 1) % i.slotCount = i.outIdx →
      capture i s = ⟨.queueFull, { i with pendingError := .queueFull, irqActive := false },
        after [.write 0x4 0#32, .write 0x8 (status &&& 3#32)]⟩)

/-! Status read (44_status_read.md). -/

/-- R162: a pending error is returned first, once, and nothing else happens. -/
def Obligations.PendingErrorSurfacesFirstAndOnce : Prop :=
  ∀ (s : State) (i : Instance), s.inst = some i → i.pendingError = .queueFull →
    exec .readStatus s =
      .next { s with inst := some { i with pendingError := .none }, response := some ⟨.queueFull, 0#32⟩ }

/-- R164: a queued word is returned without reading the device. -/
def Obligations.QueuedWordIsReadWithoutTheDevice : Prop :=
  ∀ (s : State) (i : Instance) (w : Word) (ws : List Word), s.inst = some i → QueueOk s.params i →
    i.pendingError = .none → i.contents s.opens = w :: ws →
    ∃ j, exec .readStatus s = .next { s with inst := some j, response := some ⟨.ok, w⟩ } ∧
      j = { i with outIdx := (i.outIdx + 1) % i.slotCount } ∧ j.contents s.opens = ws

/-- R163, R142, R144, R145: an empty queue is polled once, whatever the enables; the word captured, if any, is returned at once. -/
def Obligations.EmptyQueueIsPolledOnce : Prop :=
  ∀ (s : State) (i : Instance), s.inst = some i → QueueOk s.params i → i.pendingError = .none → i.inIdx = i.outIdx →
    let status := readValue s 0
    let pos := readValue s 1
    let w := encodeStatus s.params.posWidth (status.getLsbD 0) (status.getLsbD 1) (status.getLsbD 4) pos
    ∃ t j, exec .readStatus s = .next t ∧
      t = { s with
        inst := some j
        draws := t.draws
        drawCount := t.drawCount
        trace := s.trace ++ [.read 0x8 status, .read 0x0 pos, .write 0x8 (status &&& 3#32)]
        response := some (if w = 0#32 then ⟨.noStatus, 0#32⟩ else ⟨.ok, w⟩) } ∧
      (w = 0#32 → j = i) ∧
      (w ≠ 0#32 →
        j = { i with
          slots := j.slots
          inIdx := (i.inIdx + 1) % i.slotCount
          outIdx := (i.outIdx + 1) % i.slotCount } ∧
        slotLookup j.slots i.inIdx = some w ∧ ∀ k, k ≠ i.inIdx → slotLookup j.slots k = slotLookup i.slots k)

/-- R161: the capture of a READ_STATUS never meets a full queue, so READ_STATUS never sets the pending error, never writes the enable
register and never changes the global enable. -/
def Obligations.ReadStatusNeverStopsInterrupts : Prop :=
  ∀ (s : State) (i : Instance), s.inst = some i → QueueOk s.params i →
    (i.empty = true → (capture i s).result = .ok) ∧
    ∃ t j es, exec .readStatus s = .next t ∧ t.inst = some j ∧ j.pendingError = .none ∧ j.irqActive = i.irqActive ∧
      t.trace = s.trace ++ es ∧ ∀ v, Event.write 0x4 v ∉ es

/-! Interrupt dispatch (43_dispatch.md). -/

/-- R153, R156: with no enabled latch asserted, whatever else the status shows, the answer is "not this device" and nothing else. -/
def Obligations.NotThisDevice : Prop :=
  ∀ (s : State) (i : Instance), s.inst = some i →
    (readValue s 0).extractLsb' 0 4 &&& (if i.irqActive then i.enableMask else 0#4) = 0#4 →
    ∃ t, exec .serviceInterrupt s = .next t ∧
      t = { s with
        draws := t.draws
        drawCount := t.drawCount
        trace := s.trace ++ [.read 0x8 (readValue s 0)]
        response := some ⟨.ok, 0#32⟩ }

/-- R152: the move branch notifies, acknowledges the asserted enabled moves, counts, and queues nothing. -/
def Obligations.MoveDispatchQueuesNothing : Prop :=
  ∀ (s : State) (i : Instance) (act : BitVec 4), s.inst = some i →
    act = (readValue s 0).extractLsb' 0 4 &&& (if i.irqActive then i.enableMask else 0#4) →
    act ≠ 0#4 → act &&& 0x3#4 = 0#4 →
    ∃ t, exec .serviceInterrupt s = .next t ∧
      t = { s with
        inst := some { i with irqCount := i.irqCount + 1#32 }
        draws := t.draws
        drawCount := t.drawCount
        trace := s.trace ++ [.read 0x8 (readValue s 0)] ++
          (if i.moveNotifier ≠ 0#32 then [.notify .move i.moveNotifier] else []) ++
          [.write 0x8 ((act &&& 0xC#4).setWidth 32)]
        response := some ⟨.ok, 1#32⟩ }

/-- R150, R140, R141, R142, R144, R145, R154: the press/release branch, when its capture has no event or finds room. -/
def Obligations.PressReleaseDispatchCaptures : Prop :=
  ∀ (s : State) (i : Instance) (act : BitVec 4), s.inst = some i →
    act = (readValue s 0).extractLsb' 0 4 &&& (if i.irqActive then i.enableMask else 0#4) →
    act &&& 0x3#4 ≠ 0#4 →
    let status := readValue s 1
    let pos := readValue s 2
    let w := encodeStatus s.params.posWidth (status.getLsbD 0) (status.getLsbD 1) (status.getLsbD 4) pos
    (w = 0#32 ∨ (i.inIdx + 1) % i.slotCount ≠ i.outIdx) →
    ∃ t j, exec .serviceInterrupt s = .next t ∧
      t = { s with
        inst := some j
        draws := t.draws
        drawCount := t.drawCount
        trace := s.trace ++
          [.read 0x8 (readValue s 0), .read 0x8 status, .read 0x0 pos, .write 0x8 (status &&& 3#32)] ++
          (if i.prNotifier ≠ 0#32 then [.notify .pr i.prNotifier] else []) ++
          [.write 0x8 ((act &&& 0x3#4).setWidth 32)]
        response := some ⟨.ok, 1#32⟩ } ∧
      (w = 0#32 → j = { i with irqCount := i.irqCount + 1#32 }) ∧
      (w ≠ 0#32 →
        j = { i with slots := j.slots, inIdx := (i.inIdx + 1) % i.slotCount, irqCount := i.irqCount + 1#32 } ∧
        slotLookup j.slots i.inIdx = some w ∧ ∀ k, k ≠ i.inIdx → slotLookup j.slots k = slotLookup i.slots k)

/-- R155, R143: the press/release branch whose capture finds the queue full: the word is dropped, the enables are kept, the device is
stopped before the ack, and the dispatch is still notified, acknowledged and counted. -/
def Obligations.DispatchOnAFullQueueStopsInterrupts : Prop :=
  ∀ (s : State) (i : Instance) (act : BitVec 4), s.inst = some i →
    act = (readValue s 0).extractLsb' 0 4 &&& (if i.irqActive then i.enableMask else 0#4) →
    act &&& 0x3#4 ≠ 0#4 →
    let status := readValue s 1
    let pos := readValue s 2
    status.getLsbD 0 = true ∨ status.getLsbD 1 = true ∨ status.getLsbD 4 = true →
    (i.inIdx + 1) % i.slotCount = i.outIdx →
    ∃ t, exec .serviceInterrupt s = .next t ∧
      t = { s with
        inst := some { i with pendingError := .queueFull, irqActive := false, irqCount := i.irqCount + 1#32 }
        draws := t.draws
        drawCount := t.drawCount
        trace := s.trace ++
          [.read 0x8 (readValue s 0), .read 0x8 status, .read 0x0 pos, .write 0x4 0#32,
           .write 0x8 (status &&& 3#32)] ++
          (if i.prNotifier ≠ 0#32 then [.notify .pr i.prNotifier] else []) ++
          [.write 0x8 ((act &&& 0x3#4).setWidth 32)]
        response := some ⟨.ok, 1#32⟩ }

/-- R192, R72: SERVICE_INTERRUPT and READ_STATUS by their words, OPT and VAL ignored, and refused while CLOSED. -/
def Obligations.EventCommandsIgnoreTheirOperands : Prop :=
  (∀ (opt : BitVec 8) (v : Word), decode ⟨0x04#8 ++ opt, v⟩ = .ok .readStatus ∧
    decode ⟨0x05#8 ++ opt, v⟩ = .ok .serviceInterrupt) ∧
  ∀ s : State, s.inst = none →
    exec .readStatus s = .refused .notOpen ∧ exec .serviceInterrupt s = .refused .notOpen

/-- R151: in one dispatch press/release and move latches are never both acknowledged: when an enabled PRESS or RELEASE bit is
asserted no ack touches UP or DOWN, and otherwise no ack touches PRESS or RELEASE. -/
def Obligations.PressReleaseAndMoveAreExclusive : Prop :=
  ∀ (s t : State) (i : Instance), s.inst = some i → exec .serviceInterrupt s = .next t →
    ∃ es, t.trace = s.trace ++ es ∧
      ∀ v, Event.write 0x8 v ∈ es →
        if (readValue s 0).extractLsb' 0 4 &&& (if i.irqActive then i.enableMask else 0#4) &&& 0x3#4 ≠ 0#4
        then v &&& 0xC#32 = 0#32
        else v &&& 0x3#32 = 0#32

/-! Rules of the whole machine. -/

/-- R40: which command may write which element of an open instance. -/
def Obligations.EachElementHasItsWriters : Prop :=
  ∀ (c : Instr) (s t : State), exec c s = .next t →
    (∀ j, s.inst = none → t.inst = some j → ∃ en depth, c = .openInst en depth) ∧
    (∀ i, s.inst = some i → t.inst = none → c = .close) ∧
    (∀ i j, s.inst = some i → t.inst = some j →
      j.slotCount = i.slotCount ∧
      (c ≠ .readStatus → c ≠ .serviceInterrupt → j.slots = i.slots ∧ j.inIdx = i.inIdx) ∧
      (c ≠ .readStatus → j.outIdx = i.outIdx) ∧
      ((∀ v, c ≠ .cfgPress v ∧ c ≠ .cfgRelease v ∧ c ≠ .cfgUp v ∧ c ≠ .cfgDown v) → j.enableMask = i.enableMask) ∧
      ((∀ v, c ≠ .cfgGlobal v) → c ≠ .readStatus → c ≠ .serviceInterrupt → j.irqActive = i.irqActive) ∧
      (c ≠ .readStatus → c ≠ .serviceInterrupt → j.pendingError = i.pendingError) ∧
      ((∀ id, c ≠ .cfgPrntf id) → j.prNotifier = i.prNotifier) ∧
      ((∀ id, c ≠ .cfgMvntf id) → j.moveNotifier = i.moveNotifier) ∧
      (c ≠ .serviceInterrupt → j.irqCount = i.irqCount))

/-- R23: no step changes a parameter; POS_MASK and SX_SHIFT follow from POS_WIDTH. -/
def Obligations.ParametersNeverChange : Prop :=
  (∀ s t : State, step s = .next t → t.params = s.params) ∧
  (∀ W : PosWidth, (W.bits = 16 ∨ W.bits = 24) ∧ W.mask.toNat = 2 ^ W.bits - 1 ∧ W.sxShift = 32 - W.bits)

/-- R51, R52, R53, R59, R84: the record only grows, by legal aligned accesses inside the 16-byte block, reads at 0x0 and 0x8 and writes at
0x4 and 0x8 alone, with 0 in every bit the block does not use. -/
def Obligations.EveryAccessIsLegal : Prop :=
  ∀ s t : State, step s = .next t →
    ∃ es, t.trace = s.trace ++ es ∧ ∀ e ∈ es,
      legalEvent e ∧
      (∀ off v, e = .read off v ∨ e = .write off v → off % 4 = 0 ∧ off + 4 ≤ 16) ∧
      (∀ off v, e = .read off v → off = 0x0 ∨ off = 0x8) ∧
      (∀ off v, e = .write off v → (off = 0x4 ∨ off = 0x8) ∧ v.toNat < 16)

/-- R242, C10: every command ends after at most six device accesses and one notification. -/
def Obligations.WorkOfACommandIsBounded : Prop :=
  ∀ (c : Instr) (s t : State), exec c s = .next t →
    ∃ es, t.trace = s.trace ++ es ∧ (es.filter Event.isAccess).length ≤ 6 ∧
      (es.filter fun e => !e.isAccess).length ≤ 1

/-- R206: only SERVICE_INTERRUPT notifies, at most once, and only the handle installed on the channel. -/
def Obligations.OnlyDispatchNotifies : Prop :=
  Channel.pr.code = 0 ∧ Channel.move.code = 1 ∧
  ∀ (c : Instr) (s t : State), exec c s = .next t →
    ∃ es, t.trace = s.trace ++ es ∧ (es.filter fun e => !e.isAccess).length ≤ 1 ∧
      ∀ ch id, Event.notify ch id ∈ es →
        c = .serviceInterrupt ∧ id ≠ 0#32 ∧ ∃ i, s.inst = some i ∧ i.notifier ch = id

/-- R56, R57, R58 with the model's draws (log 2): each read takes the next value the device presents, in order, and no command takes a
value without a read. -/
def Obligations.ReadsTakeTheDrawsInOrder : Prop :=
  ∀ (c : Instr) (s t : State), exec c s = .next t →
    ∃ es n, t.trace = s.trace ++ es ∧ es.filterMap Event.readWord = (List.range n).map (readValue s) ∧
      t.draws = s.draws.drop n ∧ t.drawCount = s.drawCount + n

/-- R34: irqCount is 0 after OPEN and goes up by 1 (modulo 2^32) exactly when a SERVICE_INTERRUPT reports the interrupt handled; no
command reads it: nothing of a command's result but irqCount itself depends on it. -/
def Obligations.IrqCountCountsHandledInterrupts : Prop :=
  (∀ (s t : State) (j : Instance) (en : BitVec 4) (depth : Word), s.inst = none →
    exec (.openInst en depth) s = .next t → t.inst = some j → j.irqCount = 0#32) ∧
  ∀ (c : Instr) (s t : State) (i : Instance), s.inst = some i → exec c s = .next t →
    (∀ j, t.inst = some j →
      j.irqCount = if c = .serviceInterrupt ∧ t.response = some ⟨.ok, 1#32⟩ then i.irqCount + 1#32 else i.irqCount) ∧
    (∀ k, ∃ t' : State, exec c { s with inst := some { i with irqCount := k } } = .next t' ∧
      ({ t' with inst := t'.inst.map fun j : Instance => { j with irqCount := 0#32 } } : State) =
        { t with inst := t.inst.map fun j : Instance => { j with irqCount := 0#32 } })

/-- R201: which command may return which error and when, that every error comes with DATA 0, and what state an error leaves. -/
def Obligations.ErrorsSayWhyAndChangeNothing : Prop :=
  ∀ (c : Instr) (s t : State) (r : ResultCode) (d : Word), QueueInv s → exec c s = .next t →
    t.response = some ⟨r, d⟩ →
    (r ≠ .ok → d = 0#32) ∧
    (r = .queueFull → c = .readStatus ∧ ∃ i, s.inst = some i ∧ i.pendingError = .queueFull ∧
      t = { s with inst := some { i with pendingError := .none }, response := t.response }) ∧
    (r = .noStatus → c = .readStatus ∧ t.inst = s.inst ∧ ∃ i, s.inst = some i ∧ i.inIdx = i.outIdx ∧
      captureWord s.params.posWidth (readValue s 0) (readValue s 1) = 0#32 ∧
      t.trace = s.trace ++ [.read 0x8 (readValue s 0), .read 0x0 (readValue s 1), .write 0x8 0#32]) ∧
    (r = .allocationFailure → ∃ en depth, c = .openInst en depth ∧ s.params.queueMaxDepth < depth.toNat) ∧
    (r = .signalAlreadyInstalled → ∃ id i, id ≠ 0#32 ∧ s.inst = some i ∧
      ((c = .cfgPrntf id ∧ i.prNotifier ≠ 0#32) ∨ (c = .cfgMvntf id ∧ i.moveNotifier ≠ 0#32))) ∧
    (r = .signalNotInstalled → ∃ i, s.inst = some i ∧
      ((c = .cfgPrntf 0#32 ∧ i.prNotifier = 0#32) ∨ (c = .cfgMvntf 0#32 ∧ i.moveNotifier = 0#32))) ∧
    (r = .unsupportedOperation → c = .read ∨ c = .write ∨ c = .blockRead ∨ c = .blockWrite) ∧
    (r = .unknownOption → ∃ opt, c = .cfgUnknown opt) ∧
    (r ≠ .ok → r ≠ .queueFull → r ≠ .noStatus → t = { s with response := t.response })

/-- R236, R153, R143: while interrupts are off, only CFG.GLOBAL with a non-zero operand turns them on: no other command does, none writes
a non-zero value to the enable register, and every dispatch answers "not this device". -/
def Obligations.InterruptsStayOffUntilEnabled : Prop :=
  ∀ (c : Instr) (s t : State) (i : Instance), s.inst = some i → i.irqActive = false →
    (∀ v, v ≠ 0#32 → c ≠ .cfgGlobal v) → exec c s = .next t →
    (∀ j, t.inst = some j → j.irqActive = false) ∧
    (c = .serviceInterrupt → t.response = some ⟨.ok, 0#32⟩) ∧
    ∃ es, t.trace = s.trace ++ es ∧ ∀ v, Event.write 0x4 v ∈ es → v = 0#32

/-- R52, D13: the byte order of the register block is never observable: every step is the same step under another byte order. -/
def Obligations.ByteOrderIsUnobservable : Prop :=
  ∀ (s : State) (b : ByteOrder), step (s.withByteOrder b) = mapNext (State.withByteOrder b) (step s)

/-- R31, R179 (which the spec derives): the hardware-mirror invariant, kept by every step from every state that meets it. -/
def Obligations.MirrorIsKept : Prop :=
  ∀ s t : State, Mirror s → step s = .next t → Mirror t

/-- R24, R26, R27, R28, R25: the bounds of the queue, its canonical form, and that every queued slot has been written, kept by every
step from every state that meets them. -/
def Obligations.QueueBoundsAreKept : Prop :=
  ∀ s t : State, QueueInv s → step s = .next t → QueueInv t

/-- R81, R80, R142: every queued word stays a legal status word, so no queued word is 0. -/
def Obligations.QueuedWordsStayLegal : Prop :=
  ∀ s t : State, QueueInv s → WordsLegal s → step s = .next t →
    WordsLegal t ∧ ∀ i, t.inst = some i → ∀ w ∈ i.contents t.opens, w ≠ 0#32

/-- R81: a word that READ_STATUS returns with OK is a legal status word, whether it was queued or just captured. -/
def Obligations.WordsReadAreLegal : Prop :=
  ∀ (s t : State) (w : Word), QueueInv s → WordsLegal s → exec .readStatus s = .next t →
    t.response = some ⟨.ok, w⟩ → LegalWord s.params.posWidth w

/-- R87, R104, R162: DRAIN returns the whole content of the queue, oldest first, and says whether an error was met, when the device then
shows no event. -/
def Obligations.DrainReturnsTheWholeQueue : Prop :=
  ∀ (s : State) (i : Instance) (fuel : Nat), s.inst = some i → QueueOk s.params i →
    captureWord s.params.posWidth (readValue s 0) (readValue s 1) = 0#32 → i.count + 2 ≤ fuel →
    ∃ d, drain fuel s = some d ∧ d.words = i.contents s.opens ∧ d.metQueueFull = (i.pendingError == .queueFull) ∧
      d.state.response = some ⟨.noStatus, 0#32⟩ ∧ ∃ j, d.state.inst = some j ∧ j.empty = true

/-- R171, R205, R214 (the reference device, a harness: log 17): CFG.GLOBAL 1 leaves such a device with no latch and no position change, and
with the block's enables, so that its line is low. -/
def Obligations.EnablingClearsTheReferenceDevice : Prop :=
  ∀ (s t : State) (i : Instance) (v : Word) (es : List Event) (d d' : RefDevice), s.inst = some i → v ≠ 0#32 →
    exec (.cfgGlobal v) s = .next t → t.trace = s.trace ++ es → d.replay es = some d' →
    d'.latches = 0#4 ∧ d'.changed = false ∧ d'.enables = i.enableMask ∧ d'.line = false

/-- R151, R144, R205, R214 (the reference device, a harness: log 17): a dispatch of a press or release leaves the UP and DOWN latches of
such a device as they were, so a move pending alongside is deferred. -/
def Obligations.DispatchDefersThePendingMove : Prop :=
  ∀ (s t : State) (i : Instance) (es : List Event) (d d' : RefDevice), s.inst = some i →
    (readValue s 0).extractLsb' 0 4 &&& (if i.irqActive then i.enableMask else 0#4) &&& 0x3#4 ≠ 0#4 →
    exec .serviceInterrupt s = .next t → t.trace = s.trace ++ es → d.replay es = some d' →
    d'.latches &&& 0xC#4 = d.latches &&& 0xC#4
end

