-- ==== Sys2Proof/Laws/Slots.lean ====
section
/-! SUPPORT. The queue storage: a read after a write, the other slots, and the canonical form that every write keeps. -/

namespace Sys2Proof.Machine

/-- A write is read back. -/
theorem slotLookup_slotWrite_same (m : Slots) (k : Nat) (v : Word) : slotLookup (slotWrite m k v) k = some v := by
  induction m with
  | nil => simp [slotWrite, slotLookup]
  | cons e rest ih =>
    obtain ⟨j, u⟩ := e
    simp only [slotWrite]
    split
    · simp [slotLookup]
    · split
      · simp [slotLookup]
      · simp [slotLookup, ih, show ¬ j = k by omega]

/-- A write leaves every other slot. -/
theorem slotLookup_slotWrite_other (m : Slots) {k j : Nat} (v : Word) (h : j ≠ k) :
    slotLookup (slotWrite m k v) j = slotLookup m j := by
  induction m with
  | nil => simp [slotWrite, slotLookup, Ne.symm h]
  | cons e rest ih =>
    obtain ⟨l, u⟩ := e
    simp only [slotWrite]
    split
    · simp [slotLookup, Ne.symm h]
    · split
      · rename_i hkl
        subst hkl
        simp [slotLookup, Ne.symm h]
      · simp [slotLookup, ih]

/-- What a slot reads as once it is written: no free value. -/
theorem slotRead_of_lookup {n : Nat} {m : Slots} {k : Nat} {w : Word} (h : slotLookup m k = some w) :
    slotRead n m k = w := by
  simp [slotRead, h]

theorem slotRead_slotWrite_same (n : Nat) (m : Slots) (k : Nat) (v : Word) : slotRead n (slotWrite m k v) k = v :=
  slotRead_of_lookup (slotLookup_slotWrite_same m k v)

theorem slotRead_slotWrite_other (n : Nat) (m : Slots) {k j : Nat} (v : Word) (h : j ≠ k) :
    slotRead n (slotWrite m k v) j = slotRead n m j := by
  simp [slotRead, slotLookup_slotWrite_other m v h]

theorem slotsRiseFrom_slotWrite (m : Slots) (lo k : Nat) (v : Word) (hlo : lo ≤ k) (h : slotsRiseFrom lo m = true) :
    slotsRiseFrom lo (slotWrite m k v) = true := by
  induction m generalizing lo with
  | nil => simp [slotWrite, slotsRiseFrom, hlo]
  | cons e rest ih =>
    obtain ⟨j, u⟩ := e
    simp only [slotsRiseFrom, Bool.and_eq_true, decide_eq_true_eq] at h
    simp only [slotWrite]
    split
    · simp [slotsRiseFrom, hlo, h.2]; omega
    · split
      · rename_i hkj
        subst hkj
        simp [slotsRiseFrom, hlo, h.2]
      · simp [slotsRiseFrom, h.1, ih (j + 1) (by omega) h.2]

/-- Every write keeps the canonical form; the storage after OPEN, the empty list, has it. -/
theorem slotWrite_wf (m : Slots) (k : Nat) (v : Word) (h : m.wf = true) : Slots.wf (slotWrite m k v) = true :=
  slotsRiseFrom_slotWrite m 0 k v (Nat.zero_le k) h

theorem slots_nil_wf : Slots.wf [] = true := rfl

/-- A write lists no index but the one it writes. -/
theorem mem_slotWrite {m : Slots} {k : Nat} {v : Word} {e : Nat × Word} (h : e ∈ slotWrite m k v) :
    e = (k, v) ∨ e ∈ m := by
  induction m with
  | nil => simpa [slotWrite] using h
  | cons d rest ih =>
    obtain ⟨j, u⟩ := d
    simp only [slotWrite] at h
    split at h
    · simpa using h
    · split at h
      · rcases List.mem_cons.mp h with h | h
        · exact .inl h
        · exact .inr (List.mem_cons_of_mem _ h)
      · rcases List.mem_cons.mp h with h | h
        · exact .inr (h ▸ List.mem_cons_self)
        · exact (ih h).imp id (List.mem_cons_of_mem _)

end Sys2Proof.Machine
end

