-- ==== Sys2Proof/Laws/State.lean ====
section
/-! SUPPORT. One lemma per field per update of the state, so that no later proof unfolds a record update. -/

namespace Sys2Proof.Machine

variable (s : State) (off : Nat) (v : Word) (ch : Channel) (i : Instance)

@[simp] theorem memRead_params : (memRead off s).params = s.params := rfl
@[simp] theorem memRead_inst : (memRead off s).inst = s.inst := rfl
@[simp] theorem memRead_port : (memRead off s).port = s.port := rfl
@[simp] theorem memRead_draws : (memRead off s).draws = s.draws.tail := rfl
@[simp] theorem memRead_drawCount : (memRead off s).drawCount = s.drawCount + 1 := rfl
@[simp] theorem memRead_opens : (memRead off s).opens = s.opens := rfl
@[simp] theorem memRead_trace : (memRead off s).trace = s.trace ++ [.read off s.presented] := rfl
@[simp] theorem memRead_response : (memRead off s).response = s.response := rfl

@[simp] theorem memWrite_params : (memWrite off v s).params = s.params := rfl
@[simp] theorem memWrite_inst : (memWrite off v s).inst = s.inst := rfl
@[simp] theorem memWrite_port : (memWrite off v s).port = s.port := rfl
@[simp] theorem memWrite_draws : (memWrite off v s).draws = s.draws := rfl
@[simp] theorem memWrite_drawCount : (memWrite off v s).drawCount = s.drawCount := rfl
@[simp] theorem memWrite_opens : (memWrite off v s).opens = s.opens := rfl
@[simp] theorem memWrite_trace : (memWrite off v s).trace = s.trace ++ [.write off v] := rfl
@[simp] theorem memWrite_response : (memWrite off v s).response = s.response := rfl

@[simp] theorem notify_params : (notify ch v s).params = s.params := rfl
@[simp] theorem notify_inst : (notify ch v s).inst = s.inst := rfl
@[simp] theorem notify_port : (notify ch v s).port = s.port := rfl
@[simp] theorem notify_draws : (notify ch v s).draws = s.draws := rfl
@[simp] theorem notify_drawCount : (notify ch v s).drawCount = s.drawCount := rfl
@[simp] theorem notify_opens : (notify ch v s).opens = s.opens := rfl
@[simp] theorem notify_trace : (notify ch v s).trace = s.trace ++ [.notify ch v] := rfl
@[simp] theorem notify_response : (notify ch v s).response = s.response := rfl

@[simp] theorem setInst_params : (s.setInst i).params = s.params := rfl
@[simp] theorem setInst_inst : (s.setInst i).inst = some i := rfl
@[simp] theorem setInst_port : (s.setInst i).port = s.port := rfl
@[simp] theorem setInst_draws : (s.setInst i).draws = s.draws := rfl
@[simp] theorem setInst_drawCount : (s.setInst i).drawCount = s.drawCount := rfl
@[simp] theorem setInst_opens : (s.setInst i).opens = s.opens := rfl
@[simp] theorem setInst_trace : (s.setInst i).trace = s.trace := rfl
@[simp] theorem setInst_response : (s.setInst i).response = s.response := rfl

/-- The deferred error leaves every element but `pendingError` and `irqActive` (R143). -/
@[simp] theorem raiseQueueFull_slotCount : (raiseQueueFull i).slotCount = i.slotCount := rfl
@[simp] theorem raiseQueueFull_slots : (raiseQueueFull i).slots = i.slots := rfl
@[simp] theorem raiseQueueFull_inIdx : (raiseQueueFull i).inIdx = i.inIdx := rfl
@[simp] theorem raiseQueueFull_outIdx : (raiseQueueFull i).outIdx = i.outIdx := rfl
@[simp] theorem raiseQueueFull_enableMask : (raiseQueueFull i).enableMask = i.enableMask := rfl
@[simp] theorem raiseQueueFull_irqActive : (raiseQueueFull i).irqActive = false := rfl
@[simp] theorem raiseQueueFull_pendingError : (raiseQueueFull i).pendingError = .queueFull := rfl
@[simp] theorem raiseQueueFull_prNotifier : (raiseQueueFull i).prNotifier = i.prNotifier := rfl
@[simp] theorem raiseQueueFull_moveNotifier : (raiseQueueFull i).moveNotifier = i.moveNotifier := rfl
@[simp] theorem raiseQueueFull_irqCount : (raiseQueueFull i).irqCount = i.irqCount := rfl

end Sys2Proof.Machine
end

