-- ==== Sys2Proof/Laws/Ops.lean ====
section
/-! SUPPORT. For each shared operation, one lemma that says everything it can do, for later proofs to cite. -/

namespace Sys2Proof.Machine

@[simp] theorem isAccess_read (off : Nat) (v : Word) : (Event.read off v).isAccess = true := rfl
@[simp] theorem isAccess_write (off : Nat) (v : Word) : (Event.write off v).isAccess = true := rfl
@[simp] theorem isAccess_notify (ch : Channel) (id : Word) : (Event.notify ch id).isAccess = false := rfl
@[simp] theorem readWord_read (off : Nat) (v : Word) : (Event.read off v).readWord = some v := rfl
@[simp] theorem readWord_write (off : Nat) (v : Word) : (Event.write off v).readWord = none := rfl
@[simp] theorem readWord_notify (ch : Channel) (id : Word) : (Event.notify ch id).readWord = none := rfl

/-- `W_FLAGS` is the three flags together (R14, R79). -/
theorem wFlags_eq : wFlags = wPressed ||| wReleased ||| wMoved := rfl

/-- A word has no event flag exactly when it is 0 under `W_FLAGS` (R81). -/
theorem and_wFlags_eq_zero {w : Word} :
    w &&& wFlags = 0#32 ↔ w.getLsbD 24 = false ∧ w.getLsbD 25 = false ∧ w.getLsbD 26 = false := by
  have bit : ∀ k < 32, wFlags.getLsbD k = (decide (k = 24) || decide (k = 25) || decide (k = 26)) := by decide
  constructor
  · intro h
    have hk : ∀ k < 32, (w.getLsbD k && wFlags.getLsbD k) = false := fun k _ => by
      rw [← BitVec.getLsbD_and, h, BitVec.getLsbD_zero]
    exact ⟨(Bool.and_true _).symm.trans (hk 24 (by decide)), (Bool.and_true _).symm.trans (hk 25 (by decide)),
      (Bool.and_true _).symm.trans (hk 26 (by decide))⟩
  · rintro ⟨h0, h1, h2⟩
    refine BitVec.eq_of_getLsbD_eq fun k hk => ?_
    rw [BitVec.getLsbD_and, bit k hk, BitVec.getLsbD_zero]
    by_cases h : k = 24 ∨ k = 25 ∨ k = 26
    · rcases h with rfl | rfl | rfl <;> simp only [h0, h1, h2, Bool.false_and]
    · simp only [not_or] at h
      simp [h]

/-- A legal status word has one of the flags of `W_FLAGS` (R81). -/
theorem LegalWord.flags {W : PosWidth} {w : Word} (h : LegalWord W w) : w &&& wFlags ≠ 0#32 := by
  intro h0
  obtain ⟨h24, h25, h26⟩ := and_wFlags_eq_zero.mp h0
  have h1 := h.hasFlag
  rw [h24, h25, h26] at h1
  cases h1

/-- What a response leaves: the state it was given, with the response on the port. -/
theorem respond_eq (res : ResultCode) (data : Word) (s : State) :
    respond res data s = .next { s with response := some { res := res, data := data } } := rfl

theorem respond_eq_next {res : ResultCode} {data : Word} {s t : State} :
    respond res data s = .next t ↔ t = { s with response := some { res := res, data := data } } := by
  simp [respond, eq_comm]

theorem whenOpen_closed {s : State} {body : Instance → Host.Outcome State Fault Refusal} (h : s.inst = none) :
    whenOpen s body = .refused .notOpen := by
  simp [whenOpen, h]

theorem whenOpen_opened {s : State} {i : Instance} {body : Instance → Host.Outcome State Fault Refusal}
    (h : s.inst = some i) : whenOpen s body = body i := by
  simp [whenOpen, h]

/-- A command that begins with the check of R192 goes on only with an open instance. -/
theorem whenOpen_eq_next {s t : State} {body : Instance → Host.Outcome State Fault Refusal} :
    whenOpen s body = .next t ↔ ∃ i, s.inst = some i ∧ body i = .next t := by
  cases h : s.inst <;> simp [whenOpen, h]

theorem presented_eq_readValue (s : State) : s.presented = readValue s 0 := by
  unfold State.presented readValue
  cases s.draws <;> simp

/-- Reads take the draws in order. -/
theorem readValue_memRead (off : Nat) (s : State) (k : Nat) : readValue (memRead off s) k = readValue s (k + 1) := by
  simp [readValue, Nat.add_assoc, Nat.add_comm 1 k]

theorem readValue_memWrite (off : Nat) (v : Word) (s : State) (k : Nat) :
    readValue (memWrite off v s) k = readValue s k := rfl

/-- A notification is emitted only with an installed handle, and changes nothing but the trace. -/
theorem notifyIfInstalled_eq (ch : Channel) (id : Word) (s : State) :
    notifyIfInstalled ch id s = { s with trace := s.trace ++ (if id ≠ 0#32 then [.notify ch id] else []) } := by
  by_cases h : id = 0#32 <;> simp [notifyIfInstalled, notify, h]

/-- A push succeeds exactly when the queue is not full, and then writes one slot and moves `in` (R102). -/
theorem push_eq_some {i i' : Instance} {w : Word} :
    push i w = some i' ↔
      i.full = false ∧ i' = { i with slots := slotWrite i.slots i.inIdx w, inIdx := i.nextIdx i.inIdx } := by
  cases h : i.full <;> simp [push, h, eq_comm]

theorem push_eq_none {i : Instance} {w : Word} : push i w = none ↔ i.full = true := by
  cases h : i.full <;> simp [push, h]

/-- A pop returns a word exactly when the queue is not empty, and then moves `out` alone (R103). -/
theorem pop_eq_some {n : Nat} {i i' : Instance} {w : Word} :
    pop n i = some (w, i') ↔
      i.empty = false ∧ w = slotRead n i.slots i.outIdx ∧ i' = { i with outIdx := i.nextIdx i.outIdx } := by
  cases h : i.empty <;> simp [pop, h, eq_comm]

theorem pop_eq_none {n : Nat} {i : Instance} : pop n i = none ↔ i.empty = true := by
  cases h : i.empty <;> simp [pop, h]

/-- The instance a capture leaves: unchanged with no event, one word more, or stopped on a full queue (R140 step 3). -/
theorem captureStore_cases (i : Instance) (w ack : Word) (s : State) :
    (w = 0#32 ∧ captureStore i w ack s = { result := .ok, inst := i, state := memWrite offIstat ack s }) ∨
    (w ≠ 0#32 ∧ ∃ i', push i w = some i' ∧
      captureStore i w ack s = { result := .ok, inst := i', state := memWrite offIstat ack s }) ∨
    (w ≠ 0#32 ∧ push i w = none ∧
      captureStore i w ack s =
        { result := .queueFull, inst := raiseQueueFull i, state := memWrite offIstat ack (memWrite offIen 0#32 s) }) := by
  by_cases hw : w = 0#32
  · simp [captureStore, hw]
  · cases hp : push i w <;> simp [captureStore, hw, hp]

/-- The accesses of a capture that meets no full queue, and the state it leaves (R140). -/
def captureState (s : State) (writes : List Event) : State :=
  { s with draws := s.draws.drop 2, drawCount := s.drawCount + 2,
           trace := s.trace ++ ([.read offIstat (readValue s 0), .read offPos (readValue s 1)] ++ writes) }

/-- Everything a capture can do (R140 to R145). -/
theorem capture_cases (i : Instance) (s : State) :
    let w := captureWord s.params.posWidth (readValue s 0) (readValue s 1)
    let ack := captureAck (readValue s 0)
    (w = 0#32 ∧ capture i s = { result := .ok, inst := i, state := captureState s [.write offIstat ack] }) ∨
    (w ≠ 0#32 ∧ ∃ i', push i w = some i' ∧
      capture i s = { result := .ok, inst := i', state := captureState s [.write offIstat ack] }) ∨
    (w ≠ 0#32 ∧ i.full = true ∧
      capture i s = { result := .queueFull, inst := raiseQueueFull i,
                      state := captureState s [.write offIen 0#32, .write offIstat ack] }) := by
  have hs : ∀ ws : List Event,
      ({ memRead offPos (memRead offIstat s) with
          trace := (memRead offPos (memRead offIstat s)).trace ++ ws } : State) = captureState s ws := by
    intro ws
    have htail : s.draws.tail.tail = s.draws.drop 2 := by simp [← List.drop_one]
    have h := readValue_memRead offIstat s 0
    simp only [memRead, presented_eq_readValue] at h
    simp [captureState, memRead, presented_eq_readValue, h, htail]
  have h1 : (memRead offIstat s).presented = readValue s 1 := by
    rw [presented_eq_readValue, readValue_memRead]
  simp only [capture, h1, presented_eq_readValue s]
  rcases captureStore_cases i (captureWord s.params.posWidth (readValue s 0) (readValue s 1))
      (captureAck (readValue s 0)) (memRead offPos (memRead offIstat s)) with ⟨hw, h⟩ | ⟨hw, i', hp, h⟩ | ⟨hw, hp, h⟩
  · refine .inl ⟨hw, ?_⟩
    rw [h, ← hs]
    rfl
  · refine .inr (.inl ⟨hw, i', hp, ?_⟩)
    rw [h, ← hs]
    rfl
  · refine .inr (.inr ⟨hw, push_eq_none.mp hp, ?_⟩)
    rw [h, ← hs]
    simp [memWrite]

/-- A notifier change answers the new handle or the error (R176, R177). -/
theorem changeNotifier_cases (held id : Word) :
    (id ≠ 0#32 ∧ held ≠ 0#32 ∧ changeNotifier held id = .error .signalAlreadyInstalled) ∨
    (id ≠ 0#32 ∧ held = 0#32 ∧ changeNotifier held id = .ok id) ∨
    (id = 0#32 ∧ held = 0#32 ∧ changeNotifier held id = .error .signalNotInstalled) ∨
    (id = 0#32 ∧ held ≠ 0#32 ∧ changeNotifier held id = .ok 0#32) := by
  by_cases h : id = 0#32 <;> by_cases h' : held = 0#32 <;> simp [changeNotifier, boolOperand, h, h']

/-- A step either idles, performs the command it fetched, or refuses a reserved operation code. -/
theorem step_eq_next {s t : State} (h : step s = .next t) :
    (s.port = [] ∧ t = s) ∨
    ∃ c rest i, s.port = c :: rest ∧ decode c = .ok i ∧ exec i { s with port := rest } = .next t := by
  cases hp : s.port with
  | nil => simp [step, fetch, hp] at h; exact .inl ⟨rfl, h.symm⟩
  | cons c rest =>
    cases hd : decode c with
    | ok i => exact .inr ⟨c, rest, i, rfl, hd, by simpa [step, fetch, hp, hd] using h⟩
    | error e => simp [step, fetch, hp, hd] at h

end Sys2Proof.Machine
end

