-- ==== Sys2Proof/Laws/Effect.lean ====
section
/-! SUPPORT. Everything a command that completes can do, once: `exec_effect` is the inversion lemma of `exec`, from which a rule of the whole
machine follows by cases on `Effect`. -/

namespace Sys2Proof.Machine

/-- What a capture leaves of the instance and what it writes (42_capture.md R140 to R144). -/
inductive CaptureEffect (i : Instance) (s : State) : Instance → List Event → Prop where
  /-- No event: nothing is pushed. -/
  | noEvent (hw : captureWord s.params.posWidth (readValue s 0) (readValue s 1) = 0#32) :
      CaptureEffect i s i [.write offIstat (captureAck (readValue s 0))]
  /-- A word is pushed. -/
  | stored (w : Word) (hw : w ≠ 0#32) (he : w = captureWord s.params.posWidth (readValue s 0) (readValue s 1))
      (hf : i.full = false) :
      CaptureEffect i s { i with slots := slotWrite i.slots i.inIdx w, inIdx := i.nextIdx i.inIdx }
        [.write offIstat (captureAck (readValue s 0))]
  /-- The queue is full: the word is dropped and interrupts stop. -/
  | stopped (hw : captureWord s.params.posWidth (readValue s 0) (readValue s 1) ≠ 0#32) (hf : i.full = true) :
      CaptureEffect i s (raiseQueueFull i) [.write offIen 0#32, .write offIstat (captureAck (readValue s 0))]

theorem capture_effect (i : Instance) (s : State) :
    ∃ j ws, CaptureEffect i s j ws ∧ (capture i s).inst = j ∧ (capture i s).state = captureState s ws := by
  rcases capture_cases i s with ⟨hw, hc⟩ | ⟨hw, i', hp, hc⟩ | ⟨hw, hf, hc⟩
  · exact ⟨_, _, .noEvent hw, by rw [hc], by rw [hc]⟩
  · obtain ⟨hf, rfl⟩ := push_eq_some.mp hp
    exact ⟨_, _, .stored _ hw rfl hf, by rw [hc], by rw [hc]⟩
  · exact ⟨_, _, .stopped hw hf, by rw [hc], by rw [hc]⟩

/-- The bit of the mask that a per-event option sets or clears (R172 to R175). -/
inductive EventOption : Instr → BitVec 4 → Word → Prop where
  | press (v : Word) : EventOption (.cfgPress v) evPress v
  | release (v : Word) : EventOption (.cfgRelease v) evRelease v
  | up (v : Word) : EventOption (.cfgUp v) evUp v
  | down (v : Word) : EventOption (.cfgDown v) evDown v

/-- The commands that only answer an error while OPEN (R178, R194 to R197). -/
inductive AlwaysFails : Instr → ResultCode → Prop where
  | unknown (opt : BitVec 8) : AlwaysFails (.cfgUnknown opt) .unknownOption
  | read : AlwaysFails .read .unsupportedOperation
  | write : AlwaysFails .write .unsupportedOperation
  | blockRead : AlwaysFails .blockRead .unsupportedOperation
  | blockWrite : AlwaysFails .blockWrite .unsupportedOperation

/-- The errors of the two notifier options (R176, R177). -/
inductive NotifierError (i : Instance) : Instr → ResultCode → Prop where
  | prHeld (id : Word) (h : id ≠ 0#32) (hh : i.prNotifier ≠ 0#32) : NotifierError i (.cfgPrntf id) .signalAlreadyInstalled
  | prNone (hh : i.prNotifier = 0#32) : NotifierError i (.cfgPrntf 0#32) .signalNotInstalled
  | moveHeld (id : Word) (h : id ≠ 0#32) (hh : i.moveNotifier ≠ 0#32) :
      NotifierError i (.cfgMvntf id) .signalAlreadyInstalled
  | moveNone (hh : i.moveNotifier = 0#32) : NotifierError i (.cfgMvntf 0#32) .signalNotInstalled

/-- The asserted enabled bits of a dispatch's own status read (R150). -/
def dispatchAct (i : Instance) (s : State) : BitVec 4 := latchBits (readValue s 0) &&& i.effective

/-- The notification of a branch, if its channel is installed (R206). -/
def notices (ch : Channel) (id : Word) : List Event := if id ≠ 0#32 then [.notify ch id] else []

/-- The step from s to t that a completed command makes. -/
inductive Effect (s : State) : Instr → State → Prop where
  | info : Effect s .queryInfo { s with response := some ⟨.ok, descriptorWord⟩ }
  | noStorage (en : BitVec 4) (depth : Word) (hi : s.inst = none) (hd : s.params.queueMaxDepth < depthOf depth) :
      Effect s (.openInst en depth) { s with response := some ⟨.allocationFailure, 0#32⟩ }
  | opened (en : BitVec 4) (depth : Word) (hi : s.inst = none) (hd : depthOf depth ≤ s.params.queueMaxDepth) :
      Effect s (.openInst en depth)
        { s with inst := some (freshInstance (depthOf depth) en), opens := s.opens + 1,
                 trace := s.trace ++ [.write offIen 0#32], response := some ⟨.ok, BitVec.ofNat 32 (depthOf depth)⟩ }
  | closed (i : Instance) (hi : s.inst = some i) :
      Effect s .close { s with inst := none, trace := s.trace ++ [.write offIen 0#32], response := some ⟨.ok, 0#32⟩ }
  | enabled (v : Word) (i : Instance) (hi : s.inst = some i) (hv : v ≠ 0#32) :
      Effect s (.cfgGlobal v)
        { s with inst := some { i with irqActive := true }, draws := s.draws.drop 1, drawCount := s.drawCount + 1,
                 trace := s.trace ++ [.write offIstat (evAll.setWidth 32), .read offPos (readValue s 0),
                                      .write offIen (i.enableMask.setWidth 32)],
                 response := some ⟨.ok, 0#32⟩ }
  | disabled (i : Instance) (hi : s.inst = some i) :
      Effect s (.cfgGlobal 0#32)
        { s with inst := some { i with irqActive := false }, trace := s.trace ++ [.write offIen 0#32],
                 response := some ⟨.ok, 0#32⟩ }
  | event (c : Instr) (b : BitVec 4) (v : Word) (i : Instance) (mask : BitVec 4) (hc : EventOption c b v)
      (hi : s.inst = some i) (hm : mask = if v = 0#32 then i.enableMask &&& ~~~b else i.enableMask ||| b) :
      Effect s c
        { s with inst := some { i with enableMask := mask },
                 trace := s.trace ++
                   (if i.irqActive then [.write offIstat (b.setWidth 32), .write offIen (mask.setWidth 32)] else []),
                 response := some ⟨.ok, 0#32⟩ }
  | notifierError (c : Instr) (r : ResultCode) (i : Instance) (hi : s.inst = some i) (hc : NotifierError i c r) :
      Effect s c { s with response := some ⟨r, 0#32⟩ }
  | prNotifier (id : Word) (i : Instance) (hi : s.inst = some i) (h : id = 0#32 ↔ i.prNotifier ≠ 0#32) :
      Effect s (.cfgPrntf id) { s with inst := some { i with prNotifier := id }, response := some ⟨.ok, 0#32⟩ }
  | moveNotifier (id : Word) (i : Instance) (hi : s.inst = some i) (h : id = 0#32 ↔ i.moveNotifier ≠ 0#32) :
      Effect s (.cfgMvntf id) { s with inst := some { i with moveNotifier := id }, response := some ⟨.ok, 0#32⟩ }
  | fails (c : Instr) (r : ResultCode) (i : Instance) (hi : s.inst = some i) (hc : AlwaysFails c r) :
      Effect s c { s with response := some ⟨r, 0#32⟩ }
  | errorRead (i : Instance) (hi : s.inst = some i) (hp : i.pendingError = .queueFull) :
      Effect s .readStatus
        { s with inst := some { i with pendingError := .none }, response := some ⟨.queueFull, 0#32⟩ }
  | wordRead (i : Instance) (hi : s.inst = some i) (hp : i.pendingError = .none) (he : i.empty = false) :
      Effect s .readStatus
        { s with inst := some { i with outIdx := i.nextIdx i.outIdx },
                 response := some ⟨.ok, slotRead s.opens i.slots i.outIdx⟩ }
  | pollFoundNone (i j : Instance) (ws : List Event) (hi : s.inst = some i) (hp : i.pendingError = .none)
      (he : i.empty = true) (hc : CaptureEffect i s j ws) (hj : j.empty = true) :
      Effect s .readStatus { captureState s ws with inst := some j, response := some ⟨.noStatus, 0#32⟩ }
  | pollFoundWord (i j : Instance) (ws : List Event) (hi : s.inst = some i) (hp : i.pendingError = .none)
      (he : i.empty = true) (hc : CaptureEffect i s j ws) (hj : j.empty = false) :
      Effect s .readStatus
        { captureState s ws with inst := some { j with outIdx := j.nextIdx j.outIdx },
                                 response := some ⟨.ok, slotRead s.opens j.slots j.outIdx⟩ }
  | notThisDevice (i : Instance) (hi : s.inst = some i) (ha : dispatchAct i s = 0#4) :
      Effect s .serviceInterrupt
        { s with draws := s.draws.drop 1, drawCount := s.drawCount + 1,
                 trace := s.trace ++ [.read offIstat (readValue s 0)], response := some ⟨.ok, 0#32⟩ }
  | moved (i : Instance) (hi : s.inst = some i) (ha : dispatchAct i s ≠ 0#4) (hp : dispatchAct i s &&& evPR = 0#4) :
      Effect s .serviceInterrupt
        { s with inst := some { i with irqCount := i.irqCount + 1#32 }, draws := s.draws.drop 1,
                 drawCount := s.drawCount + 1,
                 trace := s.trace ++ ([.read offIstat (readValue s 0)] ++ notices .move i.moveNotifier ++
                   [.write offIstat ((dispatchAct i s &&& evUD).setWidth 32)]),
                 response := some ⟨.ok, 1#32⟩ }
  | pressed (i j : Instance) (ws : List Event) (hi : s.inst = some i) (hp : dispatchAct i s &&& evPR ≠ 0#4)
      (hc : CaptureEffect i (memRead offIstat s) j ws) :
      Effect s .serviceInterrupt
        { s with inst := some { j with irqCount := j.irqCount + 1#32 }, draws := s.draws.drop 3,
                 drawCount := s.drawCount + 3,
                 trace := s.trace ++ ([.read offIstat (readValue s 0), .read offIstat (readValue s 1),
                   .read offPos (readValue s 2)] ++ ws ++ notices .pr j.prNotifier ++
                   [.write offIstat ((dispatchAct i s &&& evPR).setWidth 32)]),
                 response := some ⟨.ok, 1#32⟩ }

theorem setEventEnable_effect {s t : State} {c : Instr} {b : BitVec 4} {v : Word} (hc : EventOption c b v)
    (h : setEventEnable b v s = .next t) : Effect s c t := by
  obtain ⟨i, hi, h⟩ := whenOpen_eq_next.mp h
  have hm : (if boolOperand v then i.enableMask ||| b else i.enableMask &&& ~~~b) =
      if v = 0#32 then i.enableMask &&& ~~~b else i.enableMask ||| b := by
    by_cases hv : v = 0#32 <;> simp [boolOperand, hv]
  have he := Effect.event (s := s) c b v i _ hc hi rfl
  cases ha : i.irqActive <;> simp only [ha, hm, if_true, Bool.false_eq_true, if_false] at h he <;>
    (rw [respond_eq_next] at h; subst h; simpa [State.setInst, memWrite] using he)

theorem execCfgPrntf_effect {s t : State} {id : Word} (h : execCfgPrntf id s = .next t) : Effect s (.cfgPrntf id) t := by
  obtain ⟨i, hi, h⟩ := whenOpen_eq_next.mp h
  rcases changeNotifier_cases i.prNotifier id with ⟨a, b, e⟩ | ⟨a, b, e⟩ | ⟨a, b, e⟩ | ⟨a, b, e⟩ <;>
    simp only [e, respond_eq_next] at h <;> subst h
  · exact .notifierError _ _ i hi (.prHeld id a b)
  · exact .prNotifier id i hi (by simp [a, b])
  · subst a; exact .notifierError _ _ i hi (.prNone b)
  · subst a; exact .prNotifier 0#32 i hi (by simp [b])

theorem execCfgMvntf_effect {s t : State} {id : Word} (h : execCfgMvntf id s = .next t) : Effect s (.cfgMvntf id) t := by
  obtain ⟨i, hi, h⟩ := whenOpen_eq_next.mp h
  rcases changeNotifier_cases i.moveNotifier id with ⟨a, b, e⟩ | ⟨a, b, e⟩ | ⟨a, b, e⟩ | ⟨a, b, e⟩ <;>
    simp only [e, respond_eq_next] at h <;> subst h
  · exact .notifierError _ _ i hi (.moveHeld id a b)
  · exact .moveNotifier id i hi (by simp [a, b])
  · subst a; exact .notifierError _ _ i hi (.moveNone b)
  · subst a; exact .moveNotifier 0#32 i hi (by simp [b])

theorem execCfgGlobal_effect {s t : State} {v : Word} (h : execCfgGlobal v s = .next t) : Effect s (.cfgGlobal v) t := by
  obtain ⟨i, hi, h⟩ := whenOpen_eq_next.mp h
  by_cases hv : v = 0#32
  · subst hv
    simp only [boolOperand, bne_self_eq_false, Bool.false_eq_true, if_false, respond_eq_next] at h
    subst h
    exact .disabled i hi
  · simp only [boolOperand, bne_iff_ne, ne_eq, hv, not_false_eq_true, if_true, respond_eq_next] at h
    subst h
    have he := Effect.enabled (s := s) v i hi hv
    have hr : (memWrite offIstat (evAll.setWidth 32) s).presented = readValue s 0 := presented_eq_readValue _
    rw [List.drop_one] at he
    rw [memRead, hr]
    simpa [State.setInst, memWrite] using he

theorem execReadStatus_effect {s t : State} (h : execReadStatus s = .next t) : Effect s .readStatus t := by
  obtain ⟨i, hi, h⟩ := whenOpen_eq_next.mp h
  cases hp : i.pendingError with
  | queueFull =>
    simp only [hp, respond_eq_next] at h
    subst h
    exact .errorRead i hi hp
  | none =>
    simp only [hp] at h
    cases he : i.empty with
    | false =>
      simp only [he, Bool.false_eq_true, if_false, popAndRespond, pop, respond_eq_next] at h
      subst h
      exact .wordRead i hi hp he
    | true =>
      obtain ⟨j, ws, hc, h1, h2⟩ := capture_effect i s
      simp only [he, if_true, h1, h2, popAndRespond, pop] at h
      cases hj : j.empty with
      | true =>
        simp only [hj, if_true, respond_eq_next] at h
        subst h
        exact .pollFoundNone i j ws hi hp he hc hj
      | false =>
        simp only [hj, Bool.false_eq_true, if_false, respond_eq_next] at h
        subst h
        exact .pollFoundWord i j ws hi hp he hc hj

theorem execServiceInterrupt_effect {s t : State} (h : execServiceInterrupt s = .next t) :
    Effect s .serviceInterrupt t := by
  obtain ⟨i, hi, h⟩ := whenOpen_eq_next.mp h
  rw [presented_eq_readValue] at h
  change (if dispatchAct i s = 0#4 then _ else if dispatchAct i s &&& evPR ≠ 0#4 then
    dispatchPressRelease (dispatchAct i s) i _ else dispatchMove (dispatchAct i s) i _) = _ at h
  by_cases ha : dispatchAct i s = 0#4
  · rw [if_pos ha, respond_eq_next] at h
    subst h
    simpa [memRead, presented_eq_readValue, List.drop_one] using Effect.notThisDevice (s := s) i hi ha
  · by_cases hp : dispatchAct i s &&& evPR = 0#4
    · rw [if_neg ha, if_neg (by simpa using hp), dispatchMove, handled, notifyIfInstalled_eq, respond_eq_next] at h
      subst h
      simpa [State.setInst, memWrite, memRead, presented_eq_readValue, List.drop_one, notices] using
        Effect.moved (s := s) i hi ha hp
    · obtain ⟨j, ws, hc, h1, h2⟩ := capture_effect i (memRead offIstat s)
      rw [if_neg ha, if_pos hp, dispatchPressRelease, handled, notifyIfInstalled_eq, h1, h2, respond_eq_next] at h
      subst h
      have he := Effect.pressed (s := s) i j ws hi hp hc
      simpa [captureState, State.setInst, memWrite, readValue_memRead, presented_eq_readValue, notices, Nat.add_assoc]
        using he

/-- Every command that completes makes one of these steps. -/
theorem exec_effect {c : Instr} {s t : State} (h : exec c s = .next t) : Effect s c t := by
  cases c with
  | openInst en depth =>
    cases hi : s.inst with
    | some i => simp [exec, execOpen, hi] at h
    | none =>
      by_cases hd : s.params.queueMaxDepth < depthOf depth
      · simp only [exec, execOpen, hi, hd, if_true, respond_eq_next] at h
        subst h
        simpa [hi] using Effect.noStorage (s := s) en depth hi hd
      · simp only [exec, execOpen, hi, hd, if_false, respond_eq_next] at h
        subst h
        exact .opened en depth hi (Nat.not_lt.mp hd)
  | close =>
    obtain ⟨i, hi, h⟩ := whenOpen_eq_next.mp h
    rw [respond_eq_next] at h
    subst h
    exact .closed i hi
  | cfgGlobal v => exact execCfgGlobal_effect h
  | cfgPress v => exact setEventEnable_effect (.press v) h
  | cfgRelease v => exact setEventEnable_effect (.release v) h
  | cfgUp v => exact setEventEnable_effect (.up v) h
  | cfgDown v => exact setEventEnable_effect (.down v) h
  | cfgPrntf id => exact execCfgPrntf_effect h
  | cfgMvntf id => exact execCfgMvntf_effect h
  | cfgUnknown opt =>
    obtain ⟨i, hi, h⟩ := whenOpen_eq_next.mp h
    rw [respond_eq_next.mp h]
    exact .fails _ _ i hi (.unknown opt)
  | readStatus => exact execReadStatus_effect h
  | serviceInterrupt => exact execServiceInterrupt_effect h
  | queryInfo => rw [respond_eq_next.mp h]; exact .info
  | read =>
    obtain ⟨i, hi, h⟩ := whenOpen_eq_next.mp h
    rw [respond_eq_next.mp h]
    exact .fails _ _ i hi .read
  | write =>
    obtain ⟨i, hi, h⟩ := whenOpen_eq_next.mp h
    rw [respond_eq_next.mp h]
    exact .fails _ _ i hi .write
  | blockRead =>
    obtain ⟨i, hi, h⟩ := whenOpen_eq_next.mp h
    rw [respond_eq_next.mp h]
    exact .fails _ _ i hi .blockRead
  | blockWrite =>
    obtain ⟨i, hi, h⟩ := whenOpen_eq_next.mp h
    rw [respond_eq_next.mp h]
    exact .fails _ _ i hi .blockWrite

end Sys2Proof.Machine
end

