-- ==== Sys2Proof/Laws/PerInstr.lean ====
section
/-! SUPPORT. The family TableRow: the word the encoder gives an instruction is one of the words of its row in opcode_table.json. -/

namespace Sys2Proof.Laws.TableRow

/-- The encoded command word of a well-formed instruction is covered by a row of the opcode table with its mnemonic. -/
def Statement (i : Instr) : Prop :=
  i.wellFormed = true → ∃ r ∈ opcodeTable, r.mnemonic = i.mnemonic ∧ r.covers (encode i).cw = true

theorem openInst (en : BitVec 4) (depth : Word) : Statement (.openInst en depth) := by
  intro h
  clear h
  refine ⟨⟨"OPEN", 0x0100, 0xFF00⟩, by simp [opcodeTable], rfl, ?_⟩
  show ((0x0100#16 ||| en.setWidth 16) &&& 0xFF00#16 == 0x0100#16) = true
  clear depth
  revert en
  decide

theorem close : Statement .close := fun _ =>
  ⟨⟨"CLOSE", 0x0200, 0xFF00⟩, by simp [opcodeTable], rfl, rfl⟩

theorem cfgGlobal (v : Word) : Statement (.cfgGlobal v) := fun _ =>
  ⟨⟨"CFG.GLOBAL", 0x0300, 0xFFFF⟩, by simp [opcodeTable], rfl,
    show OpcodeRow.covers ⟨"CFG.GLOBAL", 0x0300, 0xFFFF⟩ 0x0300#16 = true by decide⟩

theorem cfgPress (v : Word) : Statement (.cfgPress v) := fun _ =>
  ⟨⟨"CFG.PRESS", 0x0301, 0xFFFF⟩, by simp [opcodeTable], rfl,
    show OpcodeRow.covers ⟨"CFG.PRESS", 0x0301, 0xFFFF⟩ 0x0301#16 = true by decide⟩

theorem cfgRelease (v : Word) : Statement (.cfgRelease v) := fun _ =>
  ⟨⟨"CFG.RELEASE", 0x0302, 0xFFFF⟩, by simp [opcodeTable], rfl,
    show OpcodeRow.covers ⟨"CFG.RELEASE", 0x0302, 0xFFFF⟩ 0x0302#16 = true by decide⟩

theorem cfgUp (v : Word) : Statement (.cfgUp v) := fun _ =>
  ⟨⟨"CFG.UP", 0x0303, 0xFFFF⟩, by simp [opcodeTable], rfl,
    show OpcodeRow.covers ⟨"CFG.UP", 0x0303, 0xFFFF⟩ 0x0303#16 = true by decide⟩

theorem cfgDown (v : Word) : Statement (.cfgDown v) := fun _ =>
  ⟨⟨"CFG.DOWN", 0x0304, 0xFFFF⟩, by simp [opcodeTable], rfl,
    show OpcodeRow.covers ⟨"CFG.DOWN", 0x0304, 0xFFFF⟩ 0x0304#16 = true by decide⟩

theorem cfgPrntf (id : Word) : Statement (.cfgPrntf id) := fun _ =>
  ⟨⟨"CFG.PRNTF", 0x0305, 0xFFFF⟩, by simp [opcodeTable], rfl,
    show OpcodeRow.covers ⟨"CFG.PRNTF", 0x0305, 0xFFFF⟩ 0x0305#16 = true by decide⟩

theorem cfgMvntf (id : Word) : Statement (.cfgMvntf id) := fun _ =>
  ⟨⟨"CFG.MVNTF", 0x0306, 0xFFFF⟩, by simp [opcodeTable], rfl,
    show OpcodeRow.covers ⟨"CFG.MVNTF", 0x0306, 0xFFFF⟩ 0x0306#16 = true by decide⟩

/-- The six ranges of the table between them cover every option from 0x07 on. -/
theorem unknown_option_covered : ∀ opt : BitVec 8, 7 ≤ opt.toNat →
    (opcodeTable.any fun r => r.mnemonic == "CFG.UNKNOWN" && r.covers (0x0300#16 ||| opt.setWidth 16)) = true := by
  decide +kernel

theorem cfgUnknown (opt : BitVec 8) : Statement (.cfgUnknown opt) := by
  intro h
  have hc := unknown_option_covered opt (by simpa [Instr.wellFormed] using h)
  simp only [List.any_eq_true, Bool.and_eq_true, beq_iff_eq] at hc
  exact hc

theorem readStatus : Statement .readStatus := fun _ =>
  ⟨⟨"READ_STATUS", 0x0400, 0xFF00⟩, by simp [opcodeTable], rfl, rfl⟩

theorem serviceInterrupt : Statement .serviceInterrupt := fun _ =>
  ⟨⟨"SERVICE_INTERRUPT", 0x0500, 0xFF00⟩, by simp [opcodeTable], rfl, rfl⟩

theorem queryInfo : Statement .queryInfo := fun _ =>
  ⟨⟨"QUERY_INFO", 0x0600, 0xFF00⟩, by simp [opcodeTable], rfl, rfl⟩

theorem read : Statement .read := fun _ =>
  ⟨⟨"READ", 0x0700, 0xFF00⟩, by simp [opcodeTable], rfl, rfl⟩

theorem write : Statement .write := fun _ =>
  ⟨⟨"WRITE", 0x0800, 0xFF00⟩, by simp [opcodeTable], rfl, rfl⟩

theorem blockRead : Statement .blockRead := fun _ =>
  ⟨⟨"BLOCK_READ", 0x0900, 0xFF00⟩, by simp [opcodeTable], rfl, rfl⟩

theorem blockWrite : Statement .blockWrite := fun _ =>
  ⟨⟨"BLOCK_WRITE", 0x0A00, 0xFF00⟩, by simp [opcodeTable], rfl, rfl⟩

end Sys2Proof.Laws.TableRow
end

