-- ==== Sys2Proof/Tests/Slice0.lean ====
section
/-! SUPPORT. Tests whose expected results are those of 95_test_vectors.md (its vector numbers in the comments) and of the encoding tables of
30_encoding.md, then one witness for the hypotheses of every statement that has some. -/

namespace Sys2Proof.Tests

open Sys2Proof.Machine

/-! Small states. -/

/-- The parameters of the vectors: QUEUE_MAX_DEPTH = 16. -/
def paramsOf (W : PosWidth) : Params := ⟨W, 0, .little⟩

/-- A CLOSED block that has made no access. -/
def closedState : State := ⟨paramsOf .w16, none, [], [], 0, 0, [], none⟩

/-- An OPEN block of width 16 with this instance, whose device presents these values. -/
def openState (i : Instance) (draws : List Word) : State := ⟨paramsOf .w16, some i, [], draws, 0, 1, [], none⟩

/-- An instance as OPEN leaves it, with these enables and this global enable. -/
def instOf (n : Nat) (mask : BitVec 4) (active : Bool) : Instance :=
  { freshInstance n mask with irqActive := active }

/-- Two slots of which one holds a word: full. -/
def fullInst (mask : BitVec 4) (active : Bool) : Instance :=
  { instOf 2 mask active with slots := [(0, 0x01000000#32)], inIdx := 1 }

/-- Four slots that hold two words, across the wrap. -/
def wrapInst : Instance :=
  { instOf 4 0x3#4 false with slots := [(0, 0x04000002#32), (3, 0x04000001#32)], inIdx := 1, outIdx := 3 }

/-- Trace, response and instance after a command that completes. -/
def seen (c : Instr) (s : State) : Option (List Event × Option Response × Option Instance) :=
  match exec c s with
  | .next t => some (t.trace, t.response, t.inst)
  | .fault _ => none
  | .refused _ => none

/-- Why a command is refused, if it is. -/
def refusal (c : Instr) (s : State) : Option Refusal :=
  match exec c s with
  | .next _ => none
  | .fault _ => none
  | .refused r => some r

/-- The instruction that a command word decodes to. -/
def decoded (cw : CmdWord) (v : Word) : Option Instr := (decode ⟨cw, v⟩).toOption

/-! Well-formedness. -/

theorem test_wellFormed_refuses_a_listed_option : (Instr.cfgUnknown 0x06#8).wellFormed = false := by decide

theorem test_wellFormed_accepts_the_rest :
    [Instr.cfgUnknown 0x07#8, .cfgUnknown 0xFF#8, .openInst 0xF#4 0xFFFFFFFF#32, .cfgGlobal 0#32].all
      Instr.wellFormed = true := by decide

/-! Words written out from R71 to R74: the eight bits of OP, then the eight of OPT. -/

theorem test_decode_open :
    decoded 0b0000000100000011#16 4#32 = some (.openInst 0b0011#4 4#32) ∧
    decoded 0b0000000111110011#16 5#32 = some (.openInst 0b0011#4 5#32) := by decide

theorem test_decode_close : decoded 0b0000001000000000#16 0#32 = some .close := by decide

theorem test_decode_configure :
    decoded 0b0000001100000000#16 1#32 = some (.cfgGlobal 1#32) ∧
    decoded 0b0000001100000001#16 1#32 = some (.cfgPress 1#32) ∧
    decoded 0b0000001100000010#16 0#32 = some (.cfgRelease 0#32) ∧
    decoded 0b0000001100000011#16 7#32 = some (.cfgUp 7#32) ∧
    decoded 0b0000001100000100#16 0x80000000#32 = some (.cfgDown 0x80000000#32) ∧
    decoded 0b0000001100000101#16 7#32 = some (.cfgPrntf 7#32) ∧
    decoded 0b0000001100000110#16 9#32 = some (.cfgMvntf 9#32) ∧
    decoded 0b0000001100000111#16 1#32 = some (.cfgUnknown 0x07#8) ∧
    decoded 0b0000001111111111#16 0#32 = some (.cfgUnknown 0xFF#8) := by decide

theorem test_decode_status_and_dispatch :
    decoded 0b0000010000000000#16 0#32 = some .readStatus ∧
    decoded 0b0000010110101010#16 3#32 = some .serviceInterrupt ∧
    decoded 0b0000011000000000#16 0#32 = some .queryInfo := by decide

theorem test_decode_data_operations :
    decoded 0b0000011100000000#16 0#32 = some .read ∧
    decoded 0b0000100000000000#16 0x1234#32 = some .write ∧
    decoded 0b0000100100000000#16 0#32 = some .blockRead ∧
    decoded 0b0000101000000000#16 0#32 = some .blockWrite := by decide

/-- O11. -/
theorem test_decode_reserved :
    decode ⟨0b0000000000000000#16, 0#32⟩ = .error (.reservedOp 0x00#8) ∧
    decode ⟨0b0000101100000000#16, 0#32⟩ = .error (.reservedOp 0x0B#8) ∧
    decode ⟨0b1111111100000000#16, 0#32⟩ = .error (.reservedOp 0xFF#8) := by decide

theorem test_no_two_rows_of_the_table_overlap :
    opcodeTable.Pairwise (fun a b => a.disjoint b = true) := by decide

/-- The first row of opcode_table.json, 16 bits, with VAL zero; and a word longer than the row. -/
theorem test_table_word :
    decodeTableWord 16 0x0103 = some (.openInst 0x3#4 0#32) ∧
    decodeTableWord 48 (0x0103 + 5 * 2 ^ 16) = some (.openInst 0x3#4 5#32) := by decide

/-! Status word (E1 to E11, L1-4). -/

theorem test_encode :
    encodeStatus .w16 true false false 0x1234#32 = 0x01000000#32 ∧
    encodeStatus .w16 true true true 0xFFFFFFFF#32 = 0x0700FFFF#32 ∧
    encodeStatus .w24 true true true 0xFFFFFFFF#32 = 0x07FFFFFF#32 ∧
    encodeStatus .w16 false false true 0x00012345#32 = 0x04002345#32 ∧
    encodeStatus .w16 false false false 5#32 = 0#32 := by decide

theorem test_decodeStatus :
    decodeStatus .w24 0x04008000#32 = ⟨false, false, true, 32768#32⟩ ∧
    (decodeStatus .w16 0x04008000#32).position.toInt = -32768 ∧
    (decodeStatus .w24 0x04800000#32).position.toInt = -8388608 ∧
    (decodeStatus .w24 0x047FFFFF#32).position.toInt = 8388607 ∧
    decodeStatus .w16 0xF8AB0001#32 = ⟨false, false, false, 1#32⟩ := by decide

/-- R14, and E11 and L1-4 under it: no flag; MOVED alone. -/
theorem test_wFlags :
    wFlags = 0x07000000#32 ∧ 0xF8AB0001#32 &&& wFlags = 0#32 ∧ 0x04008000#32 &&& wFlags = wMoved := by decide

/-! Queue (Q1 to Q8). -/

theorem test_push_wraps_and_refuses :
    (push { instOf 4 0#4 false with inIdx := 3, outIdx := 1 } 5#32).map
      (fun j => (j.inIdx, j.outIdx, slotLookup j.slots 3)) = some (0, 1, some 5#32) ∧
    push (fullInst 0#4 false) 5#32 = none := by decide

theorem test_pop_wraps :
    (pop 1 wrapInst).map (fun r => (r.1, r.2.inIdx, r.2.outIdx)) = some (0x04000001#32, 1, 0) ∧
    (pop 1 (instOf 4 0#4 false)).isNone = true := by decide

/-! Capture (C3, C6). -/

theorem test_capture_of_a_move :
    (capture (instOf 4 0#4 false) (openState (instOf 4 0#4 false) [0x10#32, 0xFFFFFFFE#32])).inst.slots =
      [(0, 0x0400FFFE#32)] ∧
    (capture (instOf 4 0#4 false) (openState (instOf 4 0#4 false) [0x10#32, 0xFFFFFFFE#32])).state.trace =
      [.read 0x8 0x10#32, .read 0x0 0xFFFFFFFE#32, .write 0x8 0#32] := by decide

theorem test_capture_on_a_full_queue :
    (capture (fullInst 0x3#4 true) (openState (fullInst 0x3#4 true) [1#32, 0#32])).result = .queueFull ∧
    (capture (fullInst 0x3#4 true) (openState (fullInst 0x3#4 true) [1#32, 0#32])).inst =
      { fullInst 0x3#4 false with pendingError := .queueFull } ∧
    (capture (fullInst 0x3#4 true) (openState (fullInst 0x3#4 true) [1#32, 0#32])).state.trace =
      [.read 0x8 1#32, .read 0x0 0#32, .write 0x4 0#32, .write 0x8 1#32] := by decide

/-! Commands. -/

/-- O1, O2, O5. -/
theorem test_open :
    seen (.openInst 0x0#4 0#32) closedState = some ([.write 0x4 0#32], some ⟨.ok, 16#32⟩, some (instOf 16 0x0#4 false)) ∧
    seen (.openInst 0x0#4 1#32) closedState = some ([.write 0x4 0#32], some ⟨.ok, 2#32⟩, some (instOf 2 0x0#4 false)) ∧
    seen (.openInst 0x3#4 5#32) closedState = some ([.write 0x4 0#32], some ⟨.ok, 5#32⟩, some (instOf 5 0x3#4 false)) := by
  decide

/-- O3, O4, O6. -/
theorem test_open_fails :
    seen (.openInst 0x0#4 17#32) closedState = some ([], some ⟨.allocationFailure, 0#32⟩, none) ∧
    seen (.openInst 0x0#4 0xFFFFFFFF#32) closedState = some ([], some ⟨.allocationFailure, 0#32⟩, none) ∧
    refusal (.openInst 0x0#4 4#32) (openState (instOf 2 0#4 false) []) = some .alreadyOpen := by decide

/-- O8, O9. -/
theorem test_close :
    seen .close (openState wrapInst []) = some ([.write 0x4 0#32], some ⟨.ok, 0#32⟩, none) ∧
    refusal .close closedState = some .notOpen := by decide

/-- F6, F7. -/
theorem test_cfgGlobal :
    seen (.cfgGlobal 1#32) (openState (instOf 4 0x3#4 false) [0xABCD#32]) =
      some ([.write 0x8 0xF#32, .read 0x0 0xABCD#32, .write 0x4 0x3#32], some ⟨.ok, 0#32⟩, some (instOf 4 0x3#4 true)) ∧
    seen (.cfgGlobal 0#32) (openState { wrapInst with irqActive := true } []) =
      some ([.write 0x4 0#32], some ⟨.ok, 0#32⟩, some wrapInst) := by decide

/-- F1, F4. -/
theorem test_cfgPress :
    seen (.cfgPress 1#32) (openState (instOf 4 0x0#4 false) []) =
      some ([], some ⟨.ok, 0#32⟩, some (instOf 4 0x1#4 false)) ∧
    seen (.cfgPress 1#32) (openState (instOf 4 0x1#4 true) []) =
      some ([.write 0x8 0x1#32, .write 0x4 0x1#32], some ⟨.ok, 0#32⟩, some (instOf 4 0x1#4 true)) := by decide

/-- F3. -/
theorem test_cfgRelease :
    seen (.cfgRelease 0#32) (openState (instOf 4 0x3#4 true) []) =
      some ([.write 0x8 0x2#32, .write 0x4 0x1#32], some ⟨.ok, 0#32⟩, some (instOf 4 0x1#4 true)) := by decide

/-- F2. -/
theorem test_cfgUp :
    seen (.cfgUp 1#32) (openState (instOf 4 0x1#4 true) []) =
      some ([.write 0x8 0x4#32, .write 0x4 0x5#32], some ⟨.ok, 0#32⟩, some (instOf 4 0x5#4 true)) := by decide

/-- F5. -/
theorem test_cfgDown :
    seen (.cfgDown 0x80000000#32) (openState (instOf 4 0x0#4 false) []) =
      some ([], some ⟨.ok, 0#32⟩, some (instOf 4 0x8#4 false)) := by decide

/-- An instance with this press/release handle. -/
def withPr (id : Word) : Instance := { instOf 4 0#4 false with prNotifier := id }

/-- F8, F9. -/
theorem test_cfgPrntf_installs :
    seen (.cfgPrntf 7#32) (openState (withPr 0#32) []) = some ([], some ⟨.ok, 0#32⟩, some (withPr 7#32)) ∧
    seen (.cfgPrntf 8#32) (openState (withPr 7#32) []) =
      some ([], some ⟨.signalAlreadyInstalled, 0#32⟩, some (withPr 7#32)) := by decide

/-- F10, F11. -/
theorem test_cfgPrntf_removes :
    seen (.cfgPrntf 0#32) (openState (withPr 7#32) []) = some ([], some ⟨.ok, 0#32⟩, some (withPr 0#32)) ∧
    seen (.cfgPrntf 0#32) (openState (withPr 0#32) []) =
      some ([], some ⟨.signalNotInstalled, 0#32⟩, some (withPr 0#32)) := by decide

/-- F12, L1-6. -/
theorem test_cfgMvntf :
    seen (.cfgMvntf 7#32) (openState (withPr 7#32) []) =
      some ([], some ⟨.ok, 0#32⟩, some { withPr 7#32 with moveNotifier := 7#32 }) ∧
    seen (.cfgMvntf 0#32) (openState (instOf 4 0#4 false) []) =
      some ([], some ⟨.signalNotInstalled, 0#32⟩, some (instOf 4 0#4 false)) := by decide

/-- F13, F14. -/
theorem test_cfgUnknown :
    seen (.cfgUnknown 0x07#8) (openState wrapInst []) = some ([], some ⟨.unknownOption, 0#32⟩, some wrapInst) := by decide

/-- S1, S2. -/
theorem test_readStatus_error_first_then_oldest :
    seen .readStatus (openState { wrapInst with pendingError := .queueFull } []) =
      some ([], some ⟨.queueFull, 0#32⟩, some wrapInst) ∧
    seen .readStatus (openState wrapInst []) = some ([], some ⟨.ok, 0x04000001#32⟩, some { wrapInst with outIdx := 0 }) := by
  decide

/-- S3, S4. -/
theorem test_readStatus_polls :
    seen .readStatus (openState (instOf 4 0#4 false) [2#32, 0#32]) =
      some ([.read 0x8 2#32, .read 0x0 0#32, .write 0x8 2#32], some ⟨.ok, 0x02000000#32⟩,
        some { instOf 4 0#4 false with slots := [(0, 0x02000000#32)], inIdx := 1, outIdx := 1 }) ∧
    seen .readStatus (openState (instOf 4 0#4 false) [0#32, 0#32]) =
      some ([.read 0x8 0#32, .read 0x0 0#32, .write 0x8 0#32], some ⟨.noStatus, 0#32⟩, some (instOf 4 0#4 false)) := by
  decide

/-- D4, D7, D8. -/
theorem test_serviceInterrupt_moves :
    seen .serviceInterrupt (openState { instOf 4 0xF#4 true with moveNotifier := 9#32 } [4#32]) =
      some ([.read 0x8 4#32, .notify .move 9#32, .write 0x8 4#32], some ⟨.ok, 1#32⟩,
        some { instOf 4 0xF#4 true with moveNotifier := 9#32, irqCount := 1#32 }) ∧
    seen .serviceInterrupt (openState { instOf 4 0x4#4 true with irqCount := 0xFFFFFFFF#32 } [4#32]) =
      some ([.read 0x8 4#32, .write 0x8 4#32], some ⟨.ok, 1#32⟩, some (instOf 4 0x4#4 true)) ∧
    seen .serviceInterrupt (openState (instOf 4 0x1#4 true) [0x10#32]) =
      some ([.read 0x8 0x10#32], some ⟨.ok, 0#32⟩, some (instOf 4 0x1#4 true)) := by decide

/-- D5, D9. -/
theorem test_serviceInterrupt_presses :
    seen .serviceInterrupt (openState { instOf 4 0x1#4 true with prNotifier := 7#32 } [3#32, 3#32, 0#32]) =
      some ([.read 0x8 3#32, .read 0x8 3#32, .read 0x0 0#32, .write 0x8 3#32, .notify .pr 7#32, .write 0x8 1#32],
        some ⟨.ok, 1#32⟩, some { instOf 4 0x1#4 true with prNotifier := 7#32, slots := [(0, 0x03000000#32)],
                                                            inIdx := 1, irqCount := 1#32 }) ∧
    seen .serviceInterrupt (openState { fullInst 0x1#4 true with prNotifier := 7#32 } [1#32, 1#32, 0#32]) =
      some ([.read 0x8 1#32, .read 0x8 1#32, .read 0x0 0#32, .write 0x4 0#32, .write 0x8 1#32, .notify .pr 7#32,
             .write 0x8 1#32],
        some ⟨.ok, 1#32⟩, some { fullInst 0x1#4 false with prNotifier := 7#32, pendingError := .queueFull,
                                                             irqCount := 1#32 }) := by decide

/-- O7. -/
theorem test_queryInfo :
    seen .queryInfo closedState = some ([], some ⟨.ok, 0x03100101#32⟩, none) := by decide

/-- O10, S6. -/
theorem test_data_operations :
    [Instr.read, .write, .blockRead, .blockWrite].all (fun c =>
      seen c (openState wrapInst []) == some ([], some ⟨.unsupportedOperation, 0#32⟩, some wrapInst) &&
      refusal c closedState == some .notOpen) = true ∧
    refusal .readStatus closedState = some .notOpen := by decide

/-- R76. -/
theorem test_result_codes :
    [ResultCode.ok, .noStatus, .queueFull, .allocationFailure, .signalAlreadyInstalled, .signalNotInstalled,
     .unsupportedOperation, .unknownOption].map ResultCode.code =
      [0x00#8, 0x01#8, 0x02#8, 0x03#8, 0x04#8, 0x05#8, 0x06#8, 0x07#8] := by decide

/-- A step performs the command at the port; a command placed at reset is the next one, refused there by R192. -/
theorem test_step_performs_what_withFetchWord_places :
    step (closedState.withFetchWord 16 0x0103) = exec (.openInst 0x3#4 0#32) closedState ∧
    step (State.reset.withFetchWord 16 0x0400) = .refused .notOpen := ⟨rfl, rfl⟩

/-! Witnesses: for each statement with hypotheses, a concrete input that meets them, one for each clause. -/

theorem wrapInst_ok : QueueOk (paramsOf .w16) wrapInst :=
  ⟨by decide, by decide, by decide, by decide, by decide, by decide, by decide⟩

theorem instOf_ok : QueueOk (paramsOf .w16) (instOf 2 0x1#4 false) :=
  ⟨by decide, by decide, by decide, by decide, by decide, by decide, by decide⟩

theorem fullInst_ok : QueueOk (paramsOf .w16) (fullInst 0x1#4 true) :=
  ⟨by decide, by decide, by decide, by decide, by decide, by decide, by decide⟩

/-- `CommandWordsRoundTrip`. -/
theorem witness_wellFormed_commands :
    (Instr.cfgUnknown 0x07#8).wellFormed = true ∧ (Instr.cfgUnknown 0xFF#8).wellFormed = true ∧
    (Instr.openInst 0xF#4 0#32).wellFormed = true := by decide

/-- `EncodingRecoversEveryMeaningfulBit`: OPEN with ignored bits set, the last listed option, the first and last unlisted ones. -/
theorem witness_words_that_decode :
    decode ⟨0x01F3#16, 5#32⟩ = .ok (.openInst 0x3#4 5#32) ∧ decode ⟨0x0306#16, 9#32⟩ = .ok (.cfgMvntf 9#32) ∧
    decode ⟨0x0307#16, 9#32⟩ = .ok (.cfgUnknown 0x07#8) ∧ decode ⟨0x03FF#16, 9#32⟩ = .ok (.cfgUnknown 0xFF#8) := by decide

/-- `DecodingFollowsTheOpcodeTable`: a word that a row covers, and words beside the table's ends that none does. -/
theorem witness_words_in_and_out_of_the_table :
    (∃ r ∈ opcodeTable, r.covers 0x0307#16 = true) ∧ (∀ r ∈ opcodeTable, r.covers 0x0000#16 = false) ∧
    (∀ r ∈ opcodeTable, r.covers 0x0B00#16 = false) := by decide

/-- `ReservedOperationCodesAreRefused`: both clauses at their boundary values. -/
theorem witness_reserved_codes :
    (∀ c ∈ [(⟨0x0000#16, 0#32⟩ : Command), ⟨0x0B00#16, 0#32⟩, ⟨0xFFFF#16, 0#32⟩],
      c.op = 0x00#8 ∨ 0x0B ≤ c.op.toNat) ∧
    (∀ c ∈ [(⟨0x0307#16, 0#32⟩ : Command), ⟨0x03FF#16, 0#32⟩], c.op = 0x03#8 ∧ 7 ≤ c.opt.toNat) ∧
    ({ openState wrapInst [] with port := [⟨0x0307#16, 0#32⟩] } : State).port = ⟨0x0307#16, 0#32⟩ :: [] ∧
    (openState wrapInst []).inst = some wrapInst := by decide

/-- `StepPerformsTheOldestCommand`. -/
theorem witness_ports :
    closedState.port = [] ∧ (closedState.withFetchWord 16 0x0600).port = ⟨0x0600#16, 0#32⟩ :: [] ∧
    decode ⟨0x0600#16, 0#32⟩ = .ok .queryInfo := by decide

/-- `StatusWordLayout` and `StatusWordRoundTrip`: the least and the greatest position of each width. -/
theorem witness_position_bounds :
    (-(2 : Int) ^ (PosWidth.w16.bits - 1) = (0xFFFF8000#32).toInt) ∧ ((0x7FFF#32).toInt + 1 = (2 : Int) ^ (PosWidth.w16.bits - 1)) ∧
    (-(2 : Int) ^ (PosWidth.w24.bits - 1) = (0xFF800000#32).toInt) ∧ ((0x7FFFFF#32).toInt + 1 = (2 : Int) ^ (PosWidth.w24.bits - 1)) ∧
    15 < PosWidth.w16.bits ∧ 23 < PosWidth.w24.bits := by decide

/-- `FullAndEmpty`: a full queue of two slots, and a push that fills one. -/
theorem witness_full_and_filling :
    (2 ≤ (fullInst 0#4 false).slotCount ∧ (fullInst 0#4 false).inIdx < (fullInst 0#4 false).slotCount ∧
      (fullInst 0#4 false).full = true) ∧
    ((instOf 2 0#4 false).slotCount = 2 ∧ (instOf 2 0#4 false).inIdx < 2 ∧ (instOf 2 0#4 false).empty = true ∧
      (push (instOf 2 0#4 false) 0x01000000#32).isSome = true) := by decide

/-- `PushAppendsAtTheProducerIndex`: with room for one more word, and with none. -/
theorem witness_push :
    (QueueOk (paramsOf .w16) wrapInst ∧ wrapInst.count + 1 < wrapInst.slotCount) ∧
    (QueueOk (paramsOf .w16) (fullInst 0x1#4 true) ∧ (fullInst 0x1#4 true).count + 1 = (fullInst 0x1#4 true).slotCount) :=
  ⟨⟨wrapInst_ok, by decide⟩, ⟨fullInst_ok, by decide⟩⟩

/-- `PopTakesTheOldestWord`, `QueueRefinesAList`, `UnwrittenSlotsAreNeverRead`: an empty queue and one with two words. -/
theorem witness_pop :
    (QueueOk (paramsOf .w16) wrapInst ∧ wrapInst.contents 1 = 0x04000001#32 :: [0x04000002#32]) ∧
    (QueueOk (paramsOf .w16) (instOf 2 0x1#4 false) ∧ (instOf 2 0x1#4 false).contents 1 = []) :=
  ⟨⟨wrapInst_ok, rfl⟩, ⟨instOf_ok, rfl⟩⟩

/-- `QueueHoldsOneLessThanItsSlots`: one push fills two slots, two are too many. -/
theorem witness_filling_an_empty_queue :
    QueueOk (paramsOf .w16) (instOf 2 0x1#4 false) ∧ (instOf 2 0x1#4 false).empty = true ∧
    (instOf 2 0x1#4 false).slotCount ≤ [1#32, 2#32].length ∧ [1#32].length < (instOf 2 0x1#4 false).slotCount ∧
    [1#32].length + 1 = (instOf 2 0x1#4 false).slotCount :=
  ⟨instOf_ok, by decide, by decide, by decide, by decide⟩

/-- `OpenCommand`: open; closed with a depth that fits (0, 1, 16) and one that does not (17). The commands' lifecycle clauses
(`CloseCommand`, `DataOperationsAreUnsupported`, `LifecycleRefusals` and the options') need no more than such states. -/
theorem witness_open_depths :
    (openState wrapInst []).inst = some wrapInst ∧ closedState.inst = none ∧
    depthOf 0#32 ≤ closedState.params.queueMaxDepth ∧ depthOf 1#32 ≤ closedState.params.queueMaxDepth ∧
    depthOf 16#32 ≤ closedState.params.queueMaxDepth ∧
    closedState.params.queueMaxDepth < depthOf 17#32 := by decide

/-- `NothingOfAClosedInstanceSurvives`. -/
theorem witness_close_then_open :
    ∃ t u v, (openState wrapInst []).inst = some wrapInst ∧ exec .close (openState wrapInst []) = .next t ∧
      exec (.openInst 0x1#4 4#32) t = .next u ∧ closedState.inst = none ∧
      closedState.params = (openState wrapInst []).params ∧ exec (.openInst 0x1#4 4#32) closedState = .next v :=
  ⟨_, _, _, rfl, rfl, rfl, rfl, rfl, rfl⟩

/-- `GlobalInterruptEnable`, `PerEventInterruptEnables`, `PressReleaseNotifierOption`, `MoveNotifierOption`,
`UnknownOptionIsAnswered`: an operand on each side of every case, and an active and an inactive block. -/
theorem witness_options :
    (openState (instOf 4 0x1#4 true) []).inst = some (instOf 4 0x1#4 true) ∧ (instOf 4 0x1#4 true).irqActive = true ∧
    (openState wrapInst []).inst = some wrapInst ∧ wrapInst.irqActive = false ∧ (1#32 : Word) ≠ 0#32 ∧
    (withPr 7#32).prNotifier ≠ 0#32 ∧ (withPr 7#32).moveNotifier = 0#32 ∧ 7 ≤ (0x07#8).toNat := by decide

/-- `CaptureOperation`: no event; an event with room; an event with a full queue. -/
theorem witness_captures :
    captureWord .w16 0x0C#32 9#32 = 0#32 ∧
    (captureWord .w16 0x10#32 0#32 ≠ 0#32 ∧ (wrapInst.inIdx + 1) % wrapInst.slotCount ≠ wrapInst.outIdx) ∧
    (captureWord .w16 0x01#32 0#32 ≠ 0#32 ∧
      ((fullInst 0x1#4 true).inIdx + 1) % (fullInst 0x1#4 true).slotCount = (fullInst 0x1#4 true).outIdx) := by decide

/-- `PendingErrorSurfacesFirstAndOnce`. -/
theorem witness_pending_error :
    ∃ (s : State) (i : Instance), s.inst = some i ∧ i.pendingError = .queueFull ∧ i.empty = false :=
  ⟨openState { wrapInst with pendingError := .queueFull } [], _, rfl, rfl, rfl⟩

/-- `QueuedWordIsReadWithoutTheDevice`. -/
theorem witness_queued_word :
    (openState wrapInst []).inst = some wrapInst ∧ QueueOk (openState wrapInst []).params wrapInst ∧
    wrapInst.pendingError = .none ∧ wrapInst.contents (openState wrapInst []).opens = 0x04000001#32 :: [0x04000002#32] :=
  ⟨rfl, wrapInst_ok, rfl, rfl⟩

/-- An empty open block whose device presents these values. -/
def pollState (draws : List Word) : State := openState (instOf 2 0x1#4 false) draws

/-- `EmptyQueueIsPolledOnce`, `ReadStatusNeverStopsInterrupts`: with no event and with one. -/
theorem witness_poll :
    QueueOk (pollState []).params (instOf 2 0x1#4 false) ∧ (instOf 2 0x1#4 false).pendingError = .none ∧
    (instOf 2 0x1#4 false).inIdx = (instOf 2 0x1#4 false).outIdx ∧ (instOf 2 0x1#4 false).empty = true ∧
    captureWord .w16 (readValue (pollState [0#32, 0#32]) 0) (readValue (pollState [0#32, 0#32]) 1) = 0#32 ∧
    captureWord .w16 (readValue (pollState [2#32, 0#32]) 0) (readValue (pollState [2#32, 0#32]) 1) ≠ 0#32 :=
  ⟨instOf_ok, by decide, by decide, by decide, by decide, by decide⟩

/-- The asserted enabled bits as the statements write them. -/
def actOf (i : Instance) (s : State) : BitVec 4 :=
  (readValue s 0).extractLsb' 0 4 &&& (if i.irqActive then i.enableMask else 0#4)

/-- `NotThisDevice` (nothing enabled; POSCHG alone), `MoveDispatchQueuesNothing`, both clauses of
`PressReleaseAndMoveAreExclusive`. -/
theorem witness_dispatch_branches :
    actOf (instOf 4 0xF#4 false) (openState (instOf 4 0xF#4 false) [0x0F#32]) = 0#4 ∧
    actOf (instOf 4 0xF#4 true) (openState (instOf 4 0xF#4 true) [0x10#32]) = 0#4 ∧
    (actOf (instOf 4 0xF#4 true) (openState (instOf 4 0xF#4 true) [0x0C#32]) ≠ 0#4 ∧
      actOf (instOf 4 0xF#4 true) (openState (instOf 4 0xF#4 true) [0x0C#32]) &&& 0x3#4 = 0#4) ∧
    actOf (instOf 4 0xF#4 true) (openState (instOf 4 0xF#4 true) [0x05#32]) &&& 0x3#4 ≠ 0#4 := by decide

/-- `PressReleaseDispatchCaptures`: the second status read shows nothing any more; it shows a press and there is room.
`DispatchOnAFullQueueStopsInterrupts`: it shows a press and the queue is full. -/
theorem witness_press_dispatches :
    (actOf (instOf 4 0x1#4 true) (openState (instOf 4 0x1#4 true) [1#32, 0#32, 0#32]) &&& 0x3#4 ≠ 0#4 ∧
      captureWord .w16 (readValue (openState (instOf 4 0x1#4 true) [1#32, 0#32, 0#32]) 1)
        (readValue (openState (instOf 4 0x1#4 true) [1#32, 0#32, 0#32]) 2) = 0#32) ∧
    (actOf (instOf 4 0x1#4 true) (openState (instOf 4 0x1#4 true) [1#32, 1#32, 0#32]) &&& 0x3#4 ≠ 0#4 ∧
      ((instOf 4 0x1#4 true).inIdx + 1) % 4 ≠ (instOf 4 0x1#4 true).outIdx) ∧
    (actOf (fullInst 0x1#4 true) (openState (fullInst 0x1#4 true) [1#32, 1#32, 0#32]) &&& 0x3#4 ≠ 0#4 ∧
      (readValue (openState (fullInst 0x1#4 true) [1#32, 1#32, 0#32]) 1).getLsbD 0 = true ∧
      ((fullInst 0x1#4 true).inIdx + 1) % 2 = (fullInst 0x1#4 true).outIdx) := by decide

/-- `EachElementHasItsWriters`, `WorkOfACommandIsBounded`, `OnlyDispatchNotifies`, `ReadsTakeTheDrawsInOrder`,
`IrqCountCountsHandledInterrupts`: commands that complete, opening, closing and keeping the instance. -/
theorem witness_commands_complete :
    (∃ t, exec (.openInst 0x1#4 4#32) closedState = .next t ∧ closedState.inst = none ∧ t.inst = some (instOf 4 0x1#4 false)) ∧
    (∃ t, exec .close (openState wrapInst []) = .next t ∧ (openState wrapInst []).inst = some wrapInst ∧ t.inst = none) ∧
    (∃ t, exec .serviceInterrupt (openState (instOf 4 0x4#4 true) [4#32]) = .next t ∧ t.response = some ⟨.ok, 1#32⟩ ∧
      t.inst = some { instOf 4 0x4#4 true with irqCount := 1#32 }) :=
  ⟨⟨_, rfl, rfl, rfl⟩, ⟨_, rfl, rfl, rfl⟩, ⟨_, rfl, rfl, rfl⟩⟩

theorem queueInv_openState {i : Instance} {draws : List Word} (h : QueueOk (paramsOf .w16) i) : QueueInv (openState i draws) := by
  intro j hj
  cases hj
  exact h

/-- `ErrorsSayWhyAndChangeNothing`: the commands of R201 that return each code (the vectors above give the same responses). -/
theorem witness_errors :
    QueueInv closedState ∧ QueueInv (openState wrapInst []) ∧
    (∀ d, QueueInv (pollState d)) ∧
    (∃ t, exec .readStatus (pollState [0#32, 0#32]) = .next t ∧ t.response = some ⟨.noStatus, 0#32⟩) ∧
    (∃ t, exec (.openInst 0#4 17#32) closedState = .next t ∧ t.response = some ⟨.allocationFailure, 0#32⟩) ∧
    (∃ t, exec (.cfgPrntf 0#32) (openState wrapInst []) = .next t ∧ t.response = some ⟨.signalNotInstalled, 0#32⟩) ∧
    (∃ t, exec .read (openState wrapInst []) = .next t ∧ t.response = some ⟨.unsupportedOperation, 0#32⟩) ∧
    (∃ t, exec (.cfgUnknown 0xFF#8) (openState wrapInst []) = .next t ∧ t.response = some ⟨.unknownOption, 0#32⟩) :=
  ⟨nofun, queueInv_openState wrapInst_ok, fun _ => queueInv_openState instOf_ok, ⟨_, rfl, rfl⟩, ⟨_, rfl, rfl⟩, ⟨_, rfl, rfl⟩,
   ⟨_, rfl, rfl⟩, ⟨_, rfl, rfl⟩⟩

/-- The two codes of `ErrorsSayWhyAndChangeNothing` that need an element set. -/
theorem witness_errors_of_set_elements :
    QueueInv (openState { wrapInst with pendingError := .queueFull } []) ∧
    (∃ t, exec .readStatus (openState { wrapInst with pendingError := .queueFull } []) = .next t ∧
      t.response = some ⟨.queueFull, 0#32⟩) ∧
    QueueInv (openState { wrapInst with prNotifier := 7#32 } []) ∧
    (∃ t, exec (.cfgPrntf 8#32) (openState { wrapInst with prNotifier := 7#32 } []) = .next t ∧
      t.response = some ⟨.signalAlreadyInstalled, 0#32⟩) :=
  ⟨queueInv_openState ⟨by decide, by decide, by decide, by decide, by decide, by decide, by decide⟩, ⟨_, rfl, rfl⟩,
   queueInv_openState ⟨by decide, by decide, by decide, by decide, by decide, by decide, by decide⟩, ⟨_, rfl, rfl⟩⟩

/-- `InterruptsStayOffUntilEnabled`: a dispatch and a per-event option while interrupts are off. -/
theorem witness_interrupts_off :
    (openState (instOf 4 0xF#4 false) [0x0F#32]).inst = some (instOf 4 0xF#4 false) ∧
    (instOf 4 0xF#4 false).irqActive = false ∧
    (∃ t, exec .serviceInterrupt (openState (instOf 4 0xF#4 false) [0x0F#32]) = .next t) ∧
    (∃ t, exec (.cfgPress 1#32) (openState (instOf 4 0xF#4 false) [0x0F#32]) = .next t) :=
  ⟨rfl, rfl, ⟨_, rfl⟩, ⟨_, rfl⟩⟩

/-- An active block whose record is that of an OPEN and a CFG.GLOBAL 1, with two commands at its port. -/
def activeState : State :=
  { openState { wrapInst with irqActive := true } [] with
    port := [⟨0x0302#16, 0#32⟩, ⟨0x0400#16, 0#32⟩]
    trace := [.write 0x4 0#32, .write 0x8 0xF#32, .read 0x0 0#32, .write 0x4 0x3#32] }

theorem legal_moves : ∀ w ∈ [0x04000001#32, 0x04000002#32], LegalWord .w16 w := by
  intro w hw
  simp only [List.mem_cons, List.not_mem_nil, or_false] at hw
  rcases hw with rfl | rfl <;> exact ⟨by decide, by decide, by decide, by decide⟩

/-- `MirrorIsKept`, `QueueBoundsAreKept`, `QueuedWordsStayLegal`, `EveryAccessIsLegal`, `ParametersNeverChange`: an open, active
block with words queued meets all the invariants, and takes a step. -/
theorem witness_invariants :
    Mirror activeState ∧ QueueInv activeState ∧ WordsLegal activeState ∧ ∃ t, step activeState = .next t := by
  refine ⟨?_, ?_, ?_, _, rfl⟩
  · intro i hi; cases hi; rfl
  · intro i hi; cases hi
    exact ⟨by decide, by decide, by decide, by decide, by decide, by decide, by decide⟩
  · intro i hi; cases hi
    exact legal_moves

/-- `WordsReadAreLegal`. -/
theorem witness_word_read :
    QueueInv (openState wrapInst []) ∧ WordsLegal (openState wrapInst []) ∧
    ∃ t, exec .readStatus (openState wrapInst []) = .next t ∧ t.response = some ⟨.ok, 0x04000001#32⟩ := by
  refine ⟨queueInv_openState wrapInst_ok, ?_, _, rfl, rfl⟩
  intro i hi
  cases hi
  exact legal_moves

/-- `DrainReturnsTheWholeQueue`: two words queued, an idle device, fuel four. -/
theorem witness_drain :
    (openState wrapInst [0#32, 0#32]).inst = some wrapInst ∧ QueueOk (openState wrapInst []).params wrapInst ∧
    captureWord .w16 (readValue (openState wrapInst [0#32, 0#32]) 0) (readValue (openState wrapInst [0#32, 0#32]) 1) = 0#32 ∧
    wrapInst.count + 2 ≤ 4 :=
  ⟨rfl, wrapInst_ok, by decide, by decide⟩

/-- A reference device with a press and a move pending and a count of 5 (R214). -/
def pendingDevice : RefDevice := ⟨0x5#4, true, 5#32, 0x5#4⟩

/-- `EnablingClearsTheReferenceDevice`: such a device takes part in a CFG.GLOBAL 1. -/
theorem witness_device_enabled :
    ∃ t es d', exec (.cfgGlobal 1#32) (openState (instOf 4 0x5#4 false) [5#32]) = .next t ∧
      t.trace = (openState (instOf 4 0x5#4 false) [5#32]).trace ++ es ∧ pendingDevice.replay es = some d' :=
  ⟨_, [.write 0x8 0xF#32, .read 0x0 5#32, .write 0x4 0x5#32], _, rfl, rfl, rfl⟩

/-- `DispatchDefersThePendingMove`: and in a dispatch of its press. -/
theorem witness_device_dispatched :
    ∃ t es d', actOf (instOf 4 0x5#4 true) (openState (instOf 4 0x5#4 true) [0x15#32, 0x15#32, 5#32]) &&& 0x3#4 ≠ 0#4 ∧
      exec .serviceInterrupt (openState (instOf 4 0x5#4 true) [0x15#32, 0x15#32, 5#32]) = .next t ∧
      t.trace = (openState (instOf 4 0x5#4 true) [0x15#32, 0x15#32, 5#32]).trace ++ es ∧ pendingDevice.replay es = some d' :=
  ⟨_, [.read 0x8 0x15#32, .read 0x8 0x15#32, .read 0x0 5#32, .write 0x8 1#32, .write 0x8 1#32], _, by decide, rfl, rfl, rfl⟩

end Sys2Proof.Tests
end

section
/-! PROOFS. The statements of 10_state.md: the parameters (R23) and the interrupt counter (R34). -/

namespace Sys2Proof.Machine

/-! The parameters. -/

/-- No command that completes writes a parameter (R23). -/
theorem Effect.params_eq {c : Instr} {s t : State} (he : Effect s c t) : t.params = s.params := by
  cases he <;> rfl

/-- Settles O44: a step that completes idles or makes one of the steps of `Effect`, none of which writes a parameter. -/
theorem parametersNeverChange : Obligations.ParametersNeverChange := by
  refine ⟨fun s t h => ?_, fun W => ?_⟩
  · rcases step_eq_next h with ⟨_, rfl⟩ | ⟨_, _, _, _, _, hx⟩
    · rfl
    · exact (exec_effect hx).params_eq
  · cases W <;> decide

/-! Who counts: `irqCount` is written by OPEN and by a dispatch that reports the interrupt handled (R34, R150). -/

/-- OPEN sets `irqCount` to 0. -/
theorem Effect.irqCount_of_open {en : BitVec 4} {depth : Word} {s t : State} {j : Instance}
    (he : Effect s (.openInst en depth) t) (hi : s.inst = none) (hj : t.inst = some j) : j.irqCount = 0#32 := by
  cases he with
  | noStorage => cases hi.symm.trans hj
  | opened => cases hj; rfl
  | event _ _ _ _ _ hc | notifierError _ _ _ _ hc | fails _ _ _ _ hc => cases hc

theorem CaptureEffect.irqCount_eq {i j : Instance} {s : State} {ws : List Event} (hc : CaptureEffect i s j ws) :
    j.irqCount = i.irqCount := by
  cases hc <;> rfl

/-- No command but SERVICE_INTERRUPT counts. -/
theorem Effect.irqCount_eq {c : Instr} {s t : State} {i j : Instance} (he : Effect s c t) (hne : c ≠ .serviceInterrupt)
    (hi : s.inst = some i) (hj : t.inst = some j) : j.irqCount = i.irqCount := by
  cases he with
  | info | noStorage | notifierError | fails => cases hi.symm.trans hj; rfl
  | opened _ _ hn => cases hn.symm.trans hi
  | closed => cases hj
  | enabled _ _ hi' | disabled _ hi' | event _ _ _ _ _ _ hi' | prNotifier _ _ hi' | moveNotifier _ _ hi'
  | errorRead _ hi' | wordRead _ hi' => cases hi'.symm.trans hi; cases hj; rfl
  | pollFoundNone _ _ _ hi' _ _ hc | pollFoundWord _ _ _ hi' _ _ hc =>
    cases hi'.symm.trans hi; cases hj; exact hc.irqCount_eq
  | notThisDevice | moved | pressed => exact absurd rfl hne

/-- A dispatch counts exactly when it answers that the interrupt was handled. -/
theorem Effect.irqCount_of_dispatch {s t : State} {i j : Instance} (he : Effect s .serviceInterrupt t)
    (hi : s.inst = some i) (hj : t.inst = some j) :
    j.irqCount = if t.response = some ⟨.ok, 1#32⟩ then i.irqCount + 1#32 else i.irqCount := by
  cases he with
  | event _ _ _ _ _ hc | notifierError _ _ _ _ hc | fails _ _ _ _ hc => cases hc
  | notThisDevice => cases hi.symm.trans hj; simp
  | moved _ hi' => cases hi'.symm.trans hi; cases hj; simp
  | pressed _ _ _ hi' _ hc => cases hi'.symm.trans hi; cases hj; simp [hc.irqCount_eq]

/-! Who reads: a command run with another value of `irqCount` makes the same step, but for `irqCount` itself. -/

/-- i with another value of `irqCount`. -/
def Instance.withIrqCount (k : Word) (i : Instance) : Instance := { i with irqCount := k }

/-- s with another value of `irqCount`, if it is open. -/
def State.withIrqCount (k : Word) (s : State) : State := { s with inst := s.inst.map (Instance.withIrqCount k) }

/-- A capture that leaves another value of `irqCount`. -/
def Captured.withIrqCount (k : Word) (c : Captured) : Captured :=
  { c with inst := c.inst.withIrqCount k, state := c.state.withIrqCount k }

section
variable (k : Word) (i : Instance) (s : State) (c : Captured) (off : Nat) (v : Word)

@[simp] theorem Instance.withIrqCount_pendingError : (i.withIrqCount k).pendingError = i.pendingError := rfl
@[simp] theorem Instance.withIrqCount_prNotifier : (i.withIrqCount k).prNotifier = i.prNotifier := rfl
@[simp] theorem Instance.withIrqCount_moveNotifier : (i.withIrqCount k).moveNotifier = i.moveNotifier := rfl
@[simp] theorem Instance.withIrqCount_empty : (i.withIrqCount k).empty = i.empty := rfl
@[simp] theorem State.withIrqCount_opens : (s.withIrqCount k).opens = s.opens := rfl
@[simp] theorem Captured.withIrqCount_inst : (c.withIrqCount k).inst = c.inst.withIrqCount k := rfl
@[simp] theorem Captured.withIrqCount_state : (c.withIrqCount k).state = c.state.withIrqCount k := rfl

theorem memRead_withIrqCount : memRead off (s.withIrqCount k) = (memRead off s).withIrqCount k := rfl
theorem memWrite_withIrqCount : memWrite off v (s.withIrqCount k) = (memWrite off v s).withIrqCount k := rfl

end

theorem State.withIrqCount_withIrqCount (k k' : Word) (s : State) :
    (s.withIrqCount k).withIrqCount k' = s.withIrqCount k' := by
  cases h : s.inst <;> simp [State.withIrqCount, h, Instance.withIrqCount]

theorem State.withIrqCount_of_closed {s : State} (k : Word) (h : s.inst = none) : s.withIrqCount k = s := by
  obtain ⟨⟩ := s
  cases h
  rfl

theorem push_withIrqCount (k : Word) (i : Instance) (w : Word) :
    push (i.withIrqCount k) w = (push i w).map (Instance.withIrqCount k) := by
  unfold push
  rw [apply_ite (Option.map _)]
  rfl

theorem captureStore_withIrqCount (k : Word) (i : Instance) (w ack : Word) (s : State) :
    captureStore (i.withIrqCount k) w ack (s.withIrqCount k) = (captureStore i w ack s).withIrqCount k := by
  unfold captureStore
  rw [push_withIrqCount]
  by_cases hw : w = 0#32
  · simp only [if_pos hw]; rfl
  · simp only [if_neg hw]
    cases push i w <;> rfl

theorem capture_withIrqCount (k : Word) (i : Instance) (s : State) :
    capture (i.withIrqCount k) (s.withIrqCount k) = (capture i s).withIrqCount k :=
  captureStore_withIrqCount k i _ _ (memRead offPos (memRead offIstat s))

theorem notifyIfInstalled_withIrqCount (k : Word) (ch : Channel) (id : Word) (s : State) :
    notifyIfInstalled ch id (s.withIrqCount k) = (notifyIfInstalled ch id s).withIrqCount k := by
  simp only [notifyIfInstalled_eq]; rfl

theorem pop_withIrqCount (n : Nat) (k : Word) (i : Instance) :
    pop n (i.withIrqCount k) = (pop n i).map (Prod.map id (Instance.withIrqCount k)) := by
  unfold pop
  rw [apply_ite (Option.map _)]
  rfl

theorem popAndRespond_withIrqCount (k : Word) (i : Instance) (s : State) :
    popAndRespond (i.withIrqCount k) (s.withIrqCount k) = mapNext (State.withIrqCount k) (popAndRespond i s) := by
  rw [popAndRespond, popAndRespond, State.withIrqCount_opens, pop_withIrqCount]
  cases pop s.opens i <;> rfl

/-- The first outcome is the second one, with some value of `irqCount` in its next state. -/
def SameButIrqCount (o' o : Host.Outcome State Fault Refusal) : Prop := ∃ k, o' = mapNext (State.withIrqCount k) o

/-- The check of R192 does not look at `irqCount`: the command's body decides. -/
theorem whenOpen_withIrqCount {k : Word} {s : State} {body body' : Instance → Host.Outcome State Fault Refusal}
    (h : ∀ i, SameButIrqCount (body' (i.withIrqCount k)) (body i)) :
    SameButIrqCount (whenOpen (s.withIrqCount k) body') (whenOpen s body) := by
  cases hi : s.inst with
  | none => exact ⟨k, by rw [State.withIrqCount_of_closed k hi, whenOpen_closed hi, whenOpen_closed hi]; rfl⟩
  | some i =>
    have hk : (s.withIrqCount k).inst = some (i.withIrqCount k) := by simp [State.withIrqCount, hi]
    rw [whenOpen_opened hk, whenOpen_opened hi]
    exact h i

theorem execOpen_withIrqCount (k : Word) (en : BitVec 4) (depth : Word) (s : State) :
    SameButIrqCount (execOpen en depth (s.withIrqCount k)) (execOpen en depth s) := by
  cases hi : s.inst with
  | some i => exact ⟨k, by simp [execOpen, State.withIrqCount, hi, mapNext]⟩
  | none =>
    rw [State.withIrqCount_of_closed k hi]
    refine ⟨0#32, ?_⟩
    by_cases hd : s.params.queueMaxDepth < depthOf depth
    · simp [execOpen, hi, hd, respond, mapNext, State.withIrqCount]
    · simp only [execOpen, hi, if_neg hd]
      rfl

theorem setEventEnable_withIrqCount (k : Word) (b : BitVec 4) (v : Word) (s : State) :
    SameButIrqCount (setEventEnable b v (s.withIrqCount k)) (setEventEnable b v s) := by
  refine whenOpen_withIrqCount fun i => ⟨k, ?_⟩
  dsimp only
  rw [apply_ite (mapNext _)]
  rfl

theorem execCfgGlobal_withIrqCount (k v : Word) (s : State) :
    SameButIrqCount (execCfgGlobal v (s.withIrqCount k)) (execCfgGlobal v s) := by
  refine whenOpen_withIrqCount fun i => ⟨k, ?_⟩
  rw [apply_ite (mapNext _)]
  rfl

theorem execCfgPrntf_withIrqCount (k id : Word) (s : State) :
    SameButIrqCount (execCfgPrntf id (s.withIrqCount k)) (execCfgPrntf id s) := by
  refine whenOpen_withIrqCount fun i => ⟨k, ?_⟩
  simp only [Instance.withIrqCount]
  cases changeNotifier i.prNotifier id <;> rfl

theorem execCfgMvntf_withIrqCount (k id : Word) (s : State) :
    SameButIrqCount (execCfgMvntf id (s.withIrqCount k)) (execCfgMvntf id s) := by
  refine whenOpen_withIrqCount fun i => ⟨k, ?_⟩
  simp only [Instance.withIrqCount]
  cases changeNotifier i.moveNotifier id <;> rfl

theorem execReadStatus_withIrqCount (k : Word) (s : State) :
    SameButIrqCount (execReadStatus (s.withIrqCount k)) (execReadStatus s) := by
  refine whenOpen_withIrqCount fun i => ⟨k, ?_⟩
  simp only [Instance.withIrqCount_pendingError, Instance.withIrqCount_empty, capture_withIrqCount]
  cases i.pendingError with
  | queueFull => rfl
  | none =>
    cases i.empty with
    | false => exact popAndRespond_withIrqCount k i s
    | true => exact popAndRespond_withIrqCount k (capture i s).inst (capture i s).state

/-- The end of a serviced dispatch writes its count over the one it was given, plus 1. -/
theorem handled_withIrqCount (k : Word) (i : Instance) (s : State) :
    SameButIrqCount (handled (i.withIrqCount k) (s.withIrqCount k)) (handled i s) := ⟨k + 1#32, rfl⟩

theorem dispatchPressRelease_withIrqCount (k : Word) (act : BitVec 4) (i : Instance) (s : State) :
    SameButIrqCount (dispatchPressRelease act (i.withIrqCount k) (s.withIrqCount k)) (dispatchPressRelease act i s) := by
  simp only [dispatchPressRelease, capture_withIrqCount, Captured.withIrqCount_inst, Captured.withIrqCount_state,
    Instance.withIrqCount_prNotifier, notifyIfInstalled_withIrqCount, memWrite_withIrqCount]
  exact handled_withIrqCount ..

theorem dispatchMove_withIrqCount (k : Word) (act : BitVec 4) (i : Instance) (s : State) :
    SameButIrqCount (dispatchMove act (i.withIrqCount k) (s.withIrqCount k)) (dispatchMove act i s) := by
  simp only [dispatchMove, Instance.withIrqCount_moveNotifier, notifyIfInstalled_withIrqCount, memWrite_withIrqCount]
  exact handled_withIrqCount ..

theorem execServiceInterrupt_withIrqCount (k : Word) (s : State) :
    SameButIrqCount (execServiceInterrupt (s.withIrqCount k)) (execServiceInterrupt s) := by
  refine whenOpen_withIrqCount fun i => ?_
  have ha : latchBits (s.withIrqCount k).presented &&& (i.withIrqCount k).effective =
    latchBits s.presented &&& i.effective := rfl
  simp only [ha, memRead_withIrqCount]
  by_cases h0 : latchBits s.presented &&& i.effective = 0#4
  · simp only [if_pos h0]
    exact ⟨k, rfl⟩
  · by_cases hp : latchBits s.presented &&& i.effective &&& evPR ≠ 0#4
    · simp only [if_neg h0, if_pos hp]
      exact dispatchPressRelease_withIrqCount ..
    · simp only [if_neg h0, if_neg hp]
      exact dispatchMove_withIrqCount ..

/-- No command reads `irqCount` (R34): run with another value it has the same outcome, but for `irqCount` itself. -/
theorem exec_withIrqCount (k : Word) (c : Instr) (s : State) :
    SameButIrqCount (exec c (s.withIrqCount k)) (exec c s) := by
  cases c with
  | openInst en depth => exact execOpen_withIrqCount k en depth s
  | cfgGlobal v => exact execCfgGlobal_withIrqCount k v s
  | cfgPress v | cfgRelease v | cfgUp v | cfgDown v => exact setEventEnable_withIrqCount k _ v s
  | cfgPrntf id => exact execCfgPrntf_withIrqCount k id s
  | cfgMvntf id => exact execCfgMvntf_withIrqCount k id s
  | readStatus => exact execReadStatus_withIrqCount k s
  | serviceInterrupt => exact execServiceInterrupt_withIrqCount k s
  | queryInfo => exact ⟨k, rfl⟩
  | close | cfgUnknown _ | read | write | blockRead | blockWrite => exact whenOpen_withIrqCount fun _ => ⟨k, rfl⟩

/-- The next state of a command run with another value of `irqCount`, once `irqCount` is left out of both. -/
theorem exec_withIrqCount_next {c : Instr} {s t : State} (k : Word) (h : exec c s = .next t) :
    ∃ t', exec c (s.withIrqCount k) = .next t' ∧ t'.withIrqCount 0#32 = t.withIrqCount 0#32 := by
  obtain ⟨k', hk⟩ := exec_withIrqCount k c s
  rw [h] at hk
  exact ⟨t.withIrqCount k', hk, t.withIrqCount_withIrqCount k' 0#32⟩

/-- Settles O49: who counts, by cases on the step a command makes; who reads, by running every command beside itself. -/
theorem irqCountCountsHandledInterrupts : Obligations.IrqCountCountsHandledInterrupts := by
  refine ⟨fun _ _ _ _ _ hi h hj => (exec_effect h).irqCount_of_open hi hj,
    fun c s t i hi h => ⟨fun j hj => ?_, fun k => ?_⟩⟩
  · by_cases hc : c = .serviceInterrupt
    · subst hc
      simpa using (exec_effect h).irqCount_of_dispatch hi hj
    · simpa [hc] using (exec_effect h).irqCount_eq hc hi hj
  · have hk : ({ s with inst := some { i with irqCount := k } } : State) = s.withIrqCount k := by
      simp [State.withIrqCount, hi, Instance.withIrqCount]
    rw [hk]
    exact exec_withIrqCount_next k h

end Sys2Proof.Machine
end

section
/-! PROOFS. The statements of 30_encoding.md: the layout of a status word (R79, R80) and the reserved operation codes (R78). -/

namespace Sys2Proof.Machine

/-! The bits of a status word (R79, R80, R120). -/

theorem posWidth_bits_le (W : PosWidth) : W.bits ≤ 24 := by
  cases W <;> decide

/-- `POS_MASK` is the low W bits (R9). -/
theorem getLsbD_mask (W : PosWidth) (k : Nat) : W.mask.getLsbD k = decide (k < W.bits) := by
  have hm : W.mask = (BitVec.allOnes W.bits).setWidth 32 := by cases W <;> rfl
  have hW := posWidth_bits_le W
  rw [hm, BitVec.getLsbD_setWidth, BitVec.getLsbD_allOnes, ← Bool.decide_and]
  exact decide_eq_decide.mpr (by omega)

/-- Each flag stands alone at its bit (R79). -/
theorem getLsbD_wPressed (k : Nat) : wPressed.getLsbD k = decide (24 = k) := BitVec.getLsbD_twoPow 24 k
theorem getLsbD_wReleased (k : Nat) : wReleased.getLsbD k = decide (25 = k) := BitVec.getLsbD_twoPow 25 k
theorem getLsbD_wMoved (k : Nat) : wMoved.getLsbD k = decide (26 = k) := BitVec.getLsbD_twoPow 26 k

/-- One line of the encoder's pseudocode: bits that are set under a condition. -/
theorem getLsbD_orIf (b : Bool) (w x : Word) (k : Nat) :
    (if b then w ||| x else w).getLsbD k = (w.getLsbD k || b && x.getLsbD k) := by
  cases b <;> simp

/-- Every bit of the word the encoder makes. -/
theorem getLsbD_encodeStatus (W : PosWidth) (p r m : Bool) (pos : Word) (k : Nat) :
    (encodeStatus W p r m pos).getLsbD k =
      (p && decide (24 = k) || r && decide (25 = k) || m && (decide (26 = k) || decide (k < W.bits) && pos.getLsbD k)) := by
  simp only [encodeStatus, getLsbD_orIf, BitVec.getLsbD_zero, BitVec.getLsbD_or, BitVec.getLsbD_and, Bool.false_or,
    getLsbD_wPressed, getLsbD_wReleased, getLsbD_wMoved, getLsbD_mask, Bool.and_comm (pos.getLsbD k)]

/-- The encoder sets no bit outside the position field and the flags. -/
theorem getLsbD_encodeStatus_unused {W : PosWidth} {k : Nat} (p r m : Bool) (pos : Word) (hW : W.bits ≤ k)
    (hk : k < 24 ∨ 26 < k) : (encodeStatus W p r m pos).getLsbD k = false := by
  simp [getLsbD_encodeStatus, show ¬ 24 = k by omega, show ¬ 25 = k by omega, show ¬ 26 = k by omega,
    show ¬ k < W.bits by omega]

theorem getLsbD_encodeStatus_position {W : PosWidth} {k : Nat} (p r m : Bool) (pos : Word) (hk : k < W.bits) :
    (encodeStatus W p r m pos).getLsbD k = (m && pos.getLsbD k) := by
  have hW := posWidth_bits_le W
  simp [getLsbD_encodeStatus, hk, show ¬ 24 = k by omega, show ¬ 25 = k by omega, show ¬ 26 = k by omega]

section
variable (W : PosWidth) (p r m : Bool) (pos : Word)

theorem encodeStatus_pressed : (encodeStatus W p r m pos).getLsbD 24 = p := by
  have hW := posWidth_bits_le W
  rw [getLsbD_encodeStatus]
  simp [show ¬ 24 < W.bits by omega]

theorem encodeStatus_released : (encodeStatus W p r m pos).getLsbD 25 = r := by
  have hW := posWidth_bits_le W
  rw [getLsbD_encodeStatus]
  simp [show ¬ 25 < W.bits by omega]

theorem encodeStatus_moved : (encodeStatus W p r m pos).getLsbD 26 = m := by
  have hW := posWidth_bits_le W
  rw [getLsbD_encodeStatus]
  simp [show ¬ 26 < W.bits by omega]

/-- A run of bits outside the fields of the layout is 0 (R80). -/
theorem encodeStatus_extractLsb'_eq_zero (start len : Nat) (hW : W.bits ≤ start) (hk : start + len ≤ 24 ∨ 26 < start) :
    (encodeStatus W p r m pos).extractLsb' start len = 0#len := by
  refine BitVec.eq_of_getLsbD_eq fun j hj => ?_
  rw [BitVec.getLsbD_extractLsb', getLsbD_encodeStatus_unused p r m pos (by omega) (by omega)]
  simp

/-- The word of no event is 0, and no other word is (R120). -/
theorem encodeStatus_eq_zero : encodeStatus W p r m pos = 0#32 ↔ p = false ∧ r = false ∧ m = false := by
  constructor
  · intro h
    have hp := encodeStatus_pressed W p r m pos
    have hr := encodeStatus_released W p r m pos
    have hm := encodeStatus_moved W p r m pos
    rw [h, BitVec.getLsbD_zero] at hp hr hm
    exact ⟨hp.symm, hr.symm, hm.symm⟩
  · rintro ⟨rfl, rfl, rfl⟩
    rfl

end

/-- Settles O8: each clause of the layout reads off one field of `getLsbD_encodeStatus`. -/
theorem statusWordLayout : Obligations.StatusWordLayout := by
  intro W p r m pos
  have hW := posWidth_bits_le W
  refine ⟨encodeStatus_pressed .., encodeStatus_released .., encodeStatus_moved .., ?_, ?_,
    fun k hk => getLsbD_encodeStatus_position p r m pos hk, encodeStatus_eq_zero ..⟩
  · exact encodeStatus_extractLsb'_eq_zero W p r m pos 27 5 (by omega) (by omega)
  · rintro rfl
    exact encodeStatus_extractLsb'_eq_zero .w16 p r m pos 16 8 (by decide) (by decide)

/-! Reserved operation codes and unlisted options (R73, R78). -/

theorem decode_of_reservedOp {c : Command} (h : c.op = 0x00#8 ∨ 0x0B ≤ c.op.toNat) :
    decode c = .error (.reservedOp c.op) := by
  unfold decode
  split
  case h_11 => rfl
  all_goals
    rename_i hop
    rw [hop] at h
    exact absurd h (by decide)

theorem decodeOption_of_unlisted {opt : BitVec 8} (val : Word) (h : 7 ≤ opt.toNat) :
    decodeOption opt val = .cfgUnknown opt := by
  unfold decodeOption
  split
  case h_8 => rfl
  all_goals exact absurd h (by decide)

theorem decode_of_configure {c : Command} (h : c.op = 0x03#8) : decode c = .ok (decodeOption c.opt c.val) := by
  simp [decode, h]

/-- A step performs the command that the oldest command word decodes to. -/
theorem step_of_decode_ok {s : State} {c : Command} {rest : List Command} {i : Instr} (hp : s.port = c :: rest)
    (hd : decode c = .ok i) : step s = exec i { s with port := rest } := by
  simp [step, fetch, hp, hd]

/-- A step refuses by name a command word that does not decode. -/
theorem step_of_decode_error {s : State} {c : Command} {rest : List Command} {e : DecodeError} (hp : s.port = c :: rest)
    (hd : decode c = .error e) : step s = .refused (refusalOf e) := by
  simp [step, fetch, hp, hd]

/-- An unlisted option is answered while the block is open (R178). -/
theorem exec_cfgUnknown_opened {s : State} {i : Instance} (opt : BitVec 8) (h : s.inst = some i) :
    exec (.cfgUnknown opt) s = .next { s with response := some ⟨.unknownOption, 0#32⟩ } :=
  (whenOpen_opened h).trans (respond_eq ..)

/-- Settles O4: the decoder rejects a reserved code, so the step refuses it; an unlisted option decodes, so the step performs it. -/
theorem reservedOperationCodesAreRefused : Obligations.ReservedOperationCodesAreRefused := by
  intro s c rest hp
  constructor
  · intro hop
    exact step_of_decode_error hp (decode_of_reservedOp hop)
  · intro i hi hop hopt
    have hd : decode c = .ok (.cfgUnknown c.opt) := by
      rw [decode_of_configure hop, decodeOption_of_unlisted c.val hopt]
    rw [step_of_decode_ok hp hd]
    exact exec_cfgUnknown_opened c.opt hi

end Sys2Proof.Machine
end

section
/-! PROOFS. The statements of 40_queue.md: when the queue is full and when it is empty (R100, R101), and what a pop takes (R103). -/

namespace Sys2Proof.Machine

/-! The ring's indices (R24, R26, R27). -/

section
variable {i : Instance}

theorem Instance.full_eq_true : i.full = true ↔ i.nextIdx i.inIdx = i.outIdx := beq_iff_eq

theorem Instance.empty_eq_true : i.empty = true ↔ i.inIdx = i.outIdx := beq_iff_eq

theorem Instance.empty_eq_false : i.empty = false ↔ i.inIdx ≠ i.outIdx := beq_eq_false_iff_ne

/-- The next index is the one above, or 0 after the last. -/
theorem Instance.nextIdx_cases {k : Nat} (hk : k < i.slotCount) :
    (k + 1 < i.slotCount ∧ i.nextIdx k = k + 1) ∨ (k + 1 = i.slotCount ∧ i.nextIdx k = 0) := by
  rcases Nat.lt_or_eq_of_le hk with h | h
  · exact .inl ⟨h, Nat.mod_eq_of_lt h⟩
  · exact .inr ⟨h, by rw [Instance.nextIdx, ← h, Nat.mod_self]⟩

theorem Instance.nextIdx_lt {k : Nat} (hk : k < i.slotCount) : i.nextIdx k < i.slotCount :=
  Nat.mod_lt _ (Nat.zero_lt_of_lt hk)

theorem Instance.nextIdx_ne_self {k : Nat} (hN : 2 ≤ i.slotCount) (hk : k < i.slotCount) : i.nextIdx k ≠ k := by
  rcases Instance.nextIdx_cases hk with ⟨_, h⟩ | ⟨_, h⟩ <;> omega

/-- Two slots: the index after the next is the index itself. -/
theorem Instance.nextIdx_nextIdx_of_two {k : Nat} (hN : i.slotCount = 2) (hk : k < 2) : i.nextIdx (i.nextIdx k) = k := by
  simp only [Instance.nextIdx, hN]
  omega

/-- A full queue of two or more slots is not empty (R100, R101). -/
theorem Instance.empty_eq_false_of_full (hN : 2 ≤ i.slotCount) (hin : i.inIdx < i.slotCount) (hf : i.full = true) :
    i.empty = false := by
  rw [Instance.empty_eq_false, ← Instance.full_eq_true.mp hf]
  exact (Instance.nextIdx_ne_self hN hin).symm

/-- One push fills an empty queue of two slots (R100). -/
theorem full_of_push_of_two_slots {i' : Instance} {w : Word} (hN : i.slotCount = 2) (hin : i.inIdx < 2)
    (he : i.empty = true) (hp : push i w = some i') : i'.full = true := by
  obtain ⟨_, rfl⟩ := push_eq_some.mp hp
  rw [Instance.full_eq_true, ← Instance.empty_eq_true.mp he]
  exact Instance.nextIdx_nextIdx_of_two hN hin

/-! The number of queued words (R28). -/

/-- `count` words from `out` on end at `in`; the content wraps exactly when `in` is below `out`. -/
theorem Instance.count_cases (hin : i.inIdx < i.slotCount) (hout : i.outIdx < i.slotCount) :
    (i.outIdx ≤ i.inIdx ∧ i.outIdx + i.count = i.inIdx) ∨
    (i.inIdx < i.outIdx ∧ i.outIdx + i.count = i.inIdx + i.slotCount) := by
  rcases Nat.lt_or_ge i.inIdx i.outIdx with h | h
  · have hc : i.count = i.inIdx + i.slotCount - i.outIdx := Nat.mod_eq_of_lt (by omega)
    omega
  · have hc : i.count = i.inIdx - i.outIdx := by
      rw [Instance.count, Nat.sub_add_comm h, Nat.add_mod_right, Nat.mod_eq_of_lt (by omega)]
    omega

theorem Instance.count_eq_zero (hin : i.inIdx < i.slotCount) (hout : i.outIdx < i.slotCount) :
    i.count = 0 ↔ i.empty = true := by
  rw [Instance.empty_eq_true]
  rcases Instance.count_cases hin hout with h | h <;> omega

theorem Instance.contents_eq_nil {n : Nat} : i.contents n = [] ↔ i.count = 0 := by
  simp [Instance.contents]

end

/-! What a pop leaves: `out` moved on, and nothing else (R103). -/

/-- i with its oldest word taken. -/
def Instance.dequeued (i : Instance) : Instance := { i with outIdx := i.nextIdx i.outIdx }

section
variable {p : Params} {i : Instance}

@[simp] theorem Instance.dequeued_slotCount : i.dequeued.slotCount = i.slotCount := rfl
@[simp] theorem Instance.dequeued_slots : i.dequeued.slots = i.slots := rfl
@[simp] theorem Instance.dequeued_inIdx : i.dequeued.inIdx = i.inIdx := rfl
@[simp] theorem Instance.dequeued_outIdx : i.dequeued.outIdx = i.nextIdx i.outIdx := rfl

theorem pop_of_not_empty (n : Nat) (he : i.empty = false) :
    pop n i = some (slotRead n i.slots i.outIdx, i.dequeued) :=
  pop_eq_some.mpr ⟨he, rfl, rfl⟩

/-- Taking a word lowers the count by one, whether or not `out` wraps. -/
theorem Instance.count_dequeued (hin : i.inIdx < i.slotCount) (hout : i.outIdx < i.slotCount) (he : i.empty = false) :
    i.count = i.dequeued.count + 1 := by
  have hne := Instance.empty_eq_false.mp he
  have hbefore := Instance.count_cases hin hout
  have hafter := Instance.count_cases (i := i.dequeued) hin (Instance.nextIdx_lt hout)
  simp only [Instance.dequeued_slotCount, Instance.dequeued_inIdx, Instance.dequeued_outIdx] at hafter
  rcases Instance.nextIdx_cases hout with ⟨_, hnext⟩ | ⟨_, hnext⟩ <;> omega

/-- The content's indices after a word is taken are the ones before, without the first. -/
theorem Instance.dequeued_index (k : Nat) :
    (i.dequeued.outIdx + k) % i.dequeued.slotCount = (i.outIdx + (k + 1)) % i.slotCount := by
  rw [Instance.dequeued_outIdx, Instance.dequeued_slotCount, Instance.nextIdx, Nat.mod_add_mod, Nat.add_assoc,
    Nat.add_comm 1 k]

/-- The content of a queue that is not empty: the word at `out`, then what is left when it is taken (R28, R103). -/
theorem Instance.contents_eq_cons (n : Nat) (hin : i.inIdx < i.slotCount) (hout : i.outIdx < i.slotCount)
    (he : i.empty = false) : i.contents n = slotRead n i.slots i.outIdx :: i.dequeued.contents n := by
  simp only [Instance.contents, Instance.count_dequeued hin hout he, List.range_succ_eq_map, List.map_cons, List.map_map,
    Nat.add_zero, Nat.mod_eq_of_lt hout, Instance.dequeued_index, Instance.dequeued_slots, Function.comp_def]

/-- Taking a word keeps the queue sound: every word left was queued before. -/
theorem QueueOk.dequeued (hq : QueueOk p i) (he : i.empty = false) : QueueOk p i.dequeued where
  minSlots := hq.minSlots
  maxSlots := hq.maxSlots
  inBound := hq.inBound
  outBound := Instance.nextIdx_lt hq.outBound
  canonical := hq.canonical
  slotBound := hq.slotBound
  written k hk := by
    have hlt : k + 1 < i.count := by
      rw [Instance.count_dequeued hq.inBound hq.outBound he]
      exact Nat.succ_lt_succ hk
    rw [Instance.dequeued_index]
    exact hq.written (k + 1) hlt

/-- A sound queue has no content exactly when `Empty()` (R28, R101). -/
theorem QueueOk.contents_eq_nil_iff (hq : QueueOk p i) (n : Nat) : i.contents n = [] ↔ i.empty = true :=
  Instance.contents_eq_nil.trans (Instance.count_eq_zero hq.inBound hq.outBound)

end

/-- Settles O12: `Full()` and `Empty()` compare indices, the next index is another one, and with two slots the one after it is the
first again. -/
theorem fullAndEmpty : Obligations.FullAndEmpty := fun _ =>
  ⟨Instance.full_eq_true, Instance.empty_eq_true, Instance.empty_eq_false_of_full, fun _ _ => full_of_push_of_two_slots⟩

/-- Settles O14: a sound queue is empty, and a pop gives none, or its content is the word the pop takes before the content the pop
leaves. -/
theorem popTakesTheOldestWord : Obligations.PopTakesTheOldestWord := by
  intro p n i hq
  refine ⟨(hq.contents_eq_nil_iff n).trans pop_eq_none.symm, hq.contents_eq_nil_iff n, fun w ws hc => ?_⟩
  have he : i.empty = false := by
    rw [← Bool.not_eq_true, ← hq.contents_eq_nil_iff n, hc]
    exact List.cons_ne_nil w ws
  rw [Instance.contents_eq_cons n hq.inBound hq.outBound he] at hc
  obtain ⟨rfl, rfl⟩ := List.cons.inj hc
  exact ⟨i.dequeued, pop_of_not_empty n he, hq.dequeued he, rfl, rfl⟩

end Sys2Proof.Machine
end

section
/-! PROOFS. The statement of 42_capture.md: the capture whole (R140 to R145). -/

namespace Sys2Proof.Machine

theorem Instance.full_eq_false {i : Instance} : i.full = false ↔ i.nextIdx i.inIdx ≠ i.outIdx := beq_eq_false_iff_ne

/-- The value acknowledged is the status read under `PRESS | RELEASE` (R144). -/
theorem captureAck_eq_and (status : Word) : captureAck status = status &&& 3#32 := by
  have hmask : (3#32 : Word) = (BitVec.allOnes 2).setWidth 32 := rfl
  refine BitVec.eq_of_getLsbD_eq fun k hk => ?_
  rw [captureAck, hmask, BitVec.getLsbD_and, BitVec.getLsbD_setWidth, BitVec.getLsbD_setWidth, BitVec.getLsbD_extractLsb',
    BitVec.getLsbD_allOnes, Nat.zero_add, Bool.and_comm (status.getLsbD k), Bool.and_assoc]

/-! The three cases of a capture (R140 step 3), each as an equation: which one `capture_cases` gives is decided by the word composed and
by `Full()`. -/

section
variable {i : Instance} {s : State}

/-- Without an event nothing is pushed (R142). -/
theorem capture_of_noEvent (hw : captureWord s.params.posWidth (readValue s 0) (readValue s 1) = 0#32) :
    capture i s = ⟨.ok, i, captureState s [.write offIstat (captureAck (readValue s 0))]⟩ := by
  rcases capture_cases i s with ⟨_, hc⟩ | ⟨hne, _⟩ | ⟨hne, _⟩
  · exact hc
  · exact absurd hw hne
  · exact absurd hw hne

/-- An event is stored when there is room (R142). -/
theorem capture_of_room (hw : captureWord s.params.posWidth (readValue s 0) (readValue s 1) ≠ 0#32) (hf : i.full = false) :
    capture i s =
      ⟨.ok, { i with
          slots := slotWrite i.slots i.inIdx (captureWord s.params.posWidth (readValue s 0) (readValue s 1))
          inIdx := i.nextIdx i.inIdx },
        captureState s [.write offIstat (captureAck (readValue s 0))]⟩ := by
  rcases capture_cases i s with ⟨h0, _⟩ | ⟨_, j, hp, hc⟩ | ⟨_, hfull, _⟩
  · exact absurd h0 hw
  · obtain ⟨_, rfl⟩ := push_eq_some.mp hp
    exact hc
  · cases hf.symm.trans hfull

/-- On a full queue the event is dropped, and the enable register is cleared before the ack (R143, R145). -/
theorem capture_of_full (hw : captureWord s.params.posWidth (readValue s 0) (readValue s 1) ≠ 0#32) (hf : i.full = true) :
    capture i s =
      ⟨.queueFull, raiseQueueFull i,
        captureState s [.write offIen 0#32, .write offIstat (captureAck (readValue s 0))]⟩ := by
  rcases capture_cases i s with ⟨h0, _⟩ | ⟨_, _, hp, _⟩ | ⟨_, _, hc⟩
  · exact absurd h0 hw
  · cases hf.symm.trans (push_eq_some.mp hp).1
  · exact hc

/-- A capture writes no field of the state but the draws, their counter and the record, which grows by the status read, the position
read and the writes in that order (R145). -/
theorem capture_frame {r : CaptureResult} {j : Instance} {ws : List Event} (h : capture i s = ⟨r, j, captureState s ws⟩) :
    capture i s = ⟨r, j, { s with
      draws := (capture i s).state.draws
      drawCount := (capture i s).state.drawCount
      trace := s.trace ++ [.read offIstat (readValue s 0), .read offPos (readValue s 1)] ++ ws }⟩ := by
  rw [h, List.append_assoc]
  rfl

end

/-- Settles O32: the word composed is 0 exactly without an event bit, and with `Full()` it selects one of the three cases above. -/
theorem captureOperation : Obligations.CaptureOperation := by
  intro s i status pos w after
  have hack : captureAck (readValue s 0) = status &&& 3#32 := captureAck_eq_and status
  refine ⟨encodeStatus_eq_zero .., fun hw => ?noEvent, fun hw hroom => ?room, fun hw hfull => ?full⟩
  case noEvent =>
    have hc := capture_frame (capture_of_noEvent (i := i) hw)
    rwa [hack] at hc
  case room =>
    have hc := capture_frame (capture_of_room hw (Instance.full_eq_false.mpr hroom))
    rw [hack] at hc
    exact ⟨_, hc, rfl, slotLookup_slotWrite_same .., fun k hk => slotLookup_slotWrite_other _ _ hk⟩
  case full =>
    have hc := capture_frame (capture_of_full hw (Instance.full_eq_true.mpr hfull))
    rwa [hack] at hc

end Sys2Proof.Machine
end

section
/-! PROOFS. The statements of 43_dispatch.md: the dispatch with no enabled latch asserted (R153, R156) and the press/release branch on a
full queue (R155). -/

namespace Sys2Proof.Machine

section
variable {s : State} {i : Instance}

/-! Which branch a dispatch of an open block takes, by the asserted enabled bits of its own status read (R150). -/

/-- With none asserted the dispatch answers 0 after its one read (R153, R156). -/
theorem exec_serviceInterrupt_of_none (hi : s.inst = some i) (ha : dispatchAct i s = 0#4) :
    exec .serviceInterrupt s = respond .ok 0#32 (memRead offIstat s) := by
  have hact : latchBits s.presented &&& i.effective = 0#4 := by rwa [presented_eq_readValue]
  exact (whenOpen_opened hi).trans (if_pos hact)

/-- An asserted PRESS or RELEASE selects the press/release branch, whatever moves are asserted with it (R151). -/
theorem exec_serviceInterrupt_of_pressRelease (hi : s.inst = some i) (ha : dispatchAct i s &&& evPR ≠ 0#4) :
    exec .serviceInterrupt s = dispatchPressRelease (dispatchAct i s) i (memRead offIstat s) := by
  have h0 : dispatchAct i s ≠ 0#4 := fun h => ha (by rw [h, BitVec.zero_and])
  have hact : latchBits s.presented &&& i.effective = dispatchAct i s := by rw [presented_eq_readValue, dispatchAct]
  refine (whenOpen_opened hi).trans ?_
  simp only [hact]
  rw [if_neg h0, if_pos ha]

/-! The press/release branch and its capture, which reads after the dispatch's own status read (R154). -/

/-- After its capture the branch notifies, acknowledges and counts, whatever the capture returned (R150, R155). -/
theorem dispatchPressRelease_of_capture {r : CaptureResult} {j : Instance} {ws : List Event} (act : BitVec 4)
    (hc : capture i s = ⟨r, j, captureState s ws⟩) :
    dispatchPressRelease act i s = .next { captureState s ws with
      inst := some { j with irqCount := j.irqCount + 1#32 }
      trace := (captureState s ws).trace ++ notices .pr j.prNotifier ++ [.write offIstat ((act &&& evPR).setWidth 32)]
      response := some ⟨.ok, 1#32⟩ } := by
  rw [dispatchPressRelease, hc, handled, respond_eq, notifyIfInstalled_eq]
  rfl

/-- The record after a read and a capture: three reads, then the capture's writes (R145). -/
theorem captureState_memRead_trace (off : Nat) (ws : List Event) :
    (captureState (memRead off s) ws).trace =
      s.trace ++ ([.read off (readValue s 0), .read offIstat (readValue s 1), .read offPos (readValue s 2)] ++ ws) := by
  simp [captureState, readValue_memRead, presented_eq_readValue]

/-- A status with an event bit composes a word other than 0 (R120, R141). -/
theorem captureWord_ne_zero {W : PosWidth} {status pos : Word}
    (h : status.getLsbD 0 = true ∨ status.getLsbD 1 = true ∨ status.getLsbD 4 = true) : captureWord W status pos ≠ 0#32 := by
  intro h0
  obtain ⟨hp, hr, hm⟩ := (encodeStatus_eq_zero ..).mp h0
  rw [hp, hr, show status.getLsbD 4 = false from hm] at h
  exact absurd h (by decide)

end

/-- Settles O37: with no enabled bit asserted the dispatch only answers. -/
theorem notThisDevice : Obligations.NotThisDevice := by
  intro s i hi ha
  refine ⟨_, exec_serviceInterrupt_of_none hi ha, ?_⟩
  rw [memRead, presented_eq_readValue]
  rfl

/-- Settles O40: the capture of the press/release branch meets a full queue with an event, and the branch goes on after it as after
any other capture. -/
theorem dispatchOnAFullQueueStopsInterrupts : Obligations.DispatchOnAFullQueueStopsInterrupts := by
  rintro s i _ hi rfl hpr status pos hevent hfull
  have hcapture := capture_of_full (s := memRead offIstat s)
    (captureWord_ne_zero (by rwa [readValue_memRead])) (Instance.full_eq_true.mpr hfull)
  refine ⟨_, (exec_serviceInterrupt_of_pressRelease hi hpr).trans (dispatchPressRelease_of_capture _ hcapture), ?_⟩
  rw [captureState_memRead_trace, readValue_memRead, captureAck_eq_and]
  rfl

end Sys2Proof.Machine
end

section
/-! PROOFS. The statements of 44_status_read.md: a pending error (R162), a queued word (R164) and the poll of an empty queue (R163). -/

namespace Sys2Proof.Machine

section
variable {s : State} {i j : Instance}

/-! Steps 3 and 4 of READ_STATUS, by what `Pop()` gives (R160). -/

theorem popAndRespond_of_none (h : pop s.opens i = none) :
    popAndRespond i s = .next { s with inst := some i, response := some ⟨.noStatus, 0#32⟩ } := by
  rw [popAndRespond, h]
  rfl

theorem popAndRespond_of_some {w : Word} (h : pop s.opens i = some (w, j)) :
    popAndRespond i s = .next { s with inst := some j, response := some ⟨.ok, w⟩ } := by
  rw [popAndRespond, h]
  rfl

/-! The three branches of READ_STATUS on an open block (R160). -/

theorem exec_readStatus_of_pendingError (hi : s.inst = some i) (hp : i.pendingError = .queueFull) :
    exec .readStatus s =
      .next { s with inst := some { i with pendingError := .none }, response := some ⟨.queueFull, 0#32⟩ } := by
  refine (whenOpen_opened hi).trans ?_
  rw [hp]
  rfl

theorem exec_readStatus_of_not_empty (hi : s.inst = some i) (hp : i.pendingError = .none) (he : i.empty = false) :
    exec .readStatus s = popAndRespond i s := by
  refine (whenOpen_opened hi).trans ?_
  rw [hp, he]
  rfl

theorem exec_readStatus_of_empty {r : CaptureResult} {writes : List Event} (hi : s.inst = some i)
    (hp : i.pendingError = .none) (he : i.empty = true) (hc : capture i s = ⟨r, j, captureState s writes⟩) :
    exec .readStatus s = popAndRespond j (captureState s writes) := by
  refine (whenOpen_opened hi).trans ?_
  rw [hp, he, hc]
  rfl

/-! The capture of a poll has room, and the word it queues is the one popped after it. -/

/-- i with one more word (R102). -/
def Instance.enqueued (w : Word) (i : Instance) : Instance :=
  { i with slots := slotWrite i.slots i.inIdx w, inIdx := i.nextIdx i.inIdx }

theorem push_of_not_full (w : Word) (hf : i.full = false) : push i w = some (i.enqueued w) :=
  push_eq_some.mpr ⟨hf, rfl⟩

theorem QueueOk.full_eq_false_of_empty {p : Params} (hq : QueueOk p i) (he : i.empty = true) : i.full = false := by
  rw [← Bool.not_eq_true]
  intro hf
  cases he.symm.trans (Instance.empty_eq_false_of_full hq.minSlots hq.inBound hf)

/-- A word pushed into an empty queue is the next one popped (R102, R103). -/
theorem pop_of_push_of_empty {w : Word} (n : Nat) (he : i.empty = true) (hp : push i w = some j) :
    pop n j = some (w, j.dequeued) := by
  have hio := Instance.empty_eq_true.mp he
  obtain ⟨hf, rfl⟩ := push_eq_some.mp hp
  refine pop_eq_some.mpr ⟨Instance.empty_eq_false.mpr (Instance.full_eq_false.mp hf), ?_, rfl⟩
  rw [← hio, slotRead_slotWrite_same]

end

/-- Settles O33: a pending error is answered before the queue is looked at. -/
theorem pendingErrorSurfacesFirstAndOnce : Obligations.PendingErrorSurfacesFirstAndOnce :=
  fun _ _ => exec_readStatus_of_pendingError

/-- Settles O34: the pop takes the first word of the content, so the queue is not empty and READ_STATUS only pops. -/
theorem queuedWordIsReadWithoutTheDevice : Obligations.QueuedWordIsReadWithoutTheDevice := by
  intro s i w ws hi hq hp hc
  obtain ⟨_, _, htake⟩ := popTakesTheOldestWord s.params s.opens i hq
  obtain ⟨j, hpop, _, hrest, hj⟩ := htake w ws hc
  obtain ⟨he, _⟩ := pop_eq_some.mp hpop
  exact ⟨j, (exec_readStatus_of_not_empty hi hp he).trans (popAndRespond_of_some hpop), hj, hrest⟩

/-- Settles O35: the capture has room; without an event the queue stays empty, and with one the pop takes the word just pushed. -/
theorem emptyQueueIsPolledOnce : Obligations.EmptyQueueIsPolledOnce := by
  intro s i hi hq hp hio status pos w
  have he : i.empty = true := Instance.empty_eq_true.mpr hio
  have hack : captureAck (readValue s 0) = status &&& 3#32 := captureAck_eq_and status
  by_cases hw : w = 0#32
  · have hexec := (exec_readStatus_of_empty hi hp he (capture_of_noEvent hw)).trans
      (popAndRespond_of_none (pop_eq_none.mpr he))
    refine ⟨_, i, hexec, ?_, fun _ => rfl, fun h => absurd hw h⟩
    rw [if_pos hw, hack]
    rfl
  · have hf := hq.full_eq_false_of_empty he
    have hpop := pop_of_push_of_empty s.opens he (push_of_not_full w hf)
    have hexec := (exec_readStatus_of_empty hi hp he (capture_of_room hw hf)).trans (popAndRespond_of_some hpop)
    refine ⟨_, (i.enqueued w).dequeued, hexec, ?_, fun h => absurd h hw, fun _ =>
      ⟨rfl, slotLookup_slotWrite_same .., fun k hk => slotLookup_slotWrite_other _ _ hk⟩⟩
    rw [if_neg hw, hack]
    rfl

end Sys2Proof.Machine
end

section
/-! PROOFS. The statements of 45_configure.md: the global enable (R171), the per-event enables (R170, R172 to R175), the two notifier
options (R176, R177) and the unlisted options (R178). -/

namespace Sys2Proof.Machine

/-! The command word of an option is the code 0x03 before the option's number (R71, R73). -/

theorem Command.op_of_append (op opt : BitVec 8) (v : Word) : (Command.mk (op ++ opt) v).op = op :=
  BitVec.extractLsb'_append_eq_left

theorem Command.opt_of_append (op opt : BitVec 8) (v : Word) : (Command.mk (op ++ opt) v).opt = opt :=
  BitVec.extractLsb'_append_eq_right

theorem decode_option (opt : BitVec 8) (v : Word) : decode ⟨0x03#8 ++ opt, v⟩ = .ok (decodeOption opt v) := by
  rw [decode_of_configure (Command.op_of_append ..), Command.opt_of_append]

/-! A boolean operand, as a test against 0 (R75). -/

theorem boolOperand_eq_true {v : Word} : boolOperand v = true ↔ v ≠ 0#32 := bne_iff_ne

theorem ite_boolOperand {α : Type} (v : Word) (a b : α) : (if boolOperand v then a else b) = if v = 0#32 then b else a := by
  simp only [boolOperand_eq_true, ne_eq, ite_not]

section
variable {s : State} {i : Instance} {v : Word}

/-! The two directions of the global enable on an open block (R171). -/

theorem exec_cfgGlobal_of_ne_zero (hi : s.inst = some i) (hv : v ≠ 0#32) :
    exec (.cfgGlobal v) s =
      respond .ok 0#32 ((memWrite offIen (i.enableMask.setWidth 32)
        (memRead offPos (memWrite offIstat (evAll.setWidth 32) s))).setInst { i with irqActive := true }) :=
  (whenOpen_opened hi).trans (if_pos (boolOperand_eq_true.mpr hv))

theorem exec_cfgGlobal_zero (hi : s.inst = some i) :
    exec (.cfgGlobal 0#32) s = respond .ok 0#32 ((memWrite offIen 0#32 s).setInst { i with irqActive := false }) :=
  whenOpen_opened hi

/-- The record of an enable: the ack comes before the position read and the mask after it (R171). -/
theorem enable_trace (ack mask : Word) :
    (memWrite offIen mask (memRead offPos (memWrite offIstat ack s))).trace =
      s.trace ++ [.write offIstat ack, .read offPos (readValue s 0), .write offIen mask] := by
  simp [presented_eq_readValue, readValue_memWrite]

/-! The per-event options (R170). -/

/-- `SetEventEnable` on an open block: one bit of the mask, and the two writes only while interrupts are active. -/
theorem setEventEnable_of_opened (b : BitVec 4) (v : Word) (hi : s.inst = some i) :
    let mask : BitVec 4 := if v = 0#32 then i.enableMask &&& ~~~b else i.enableMask ||| b
    setEventEnable b v s = .next { s with
      inst := some { i with enableMask := mask }
      trace := s.trace ++ (if i.irqActive then [.write offIstat (b.setWidth 32), .write offIen (mask.setWidth 32)] else [])
      response := some ⟨.ok, 0#32⟩ } := by
  refine (whenOpen_opened hi).trans ?_
  simp only [ite_boolOperand, respond_eq]
  cases i.irqActive
  · simp [State.setInst]
  · simp [State.setInst, memWrite]

theorem EventOption.exec_eq {c : Instr} {b : BitVec 4} (hc : EventOption c b v) : exec c s = setEventEnable b v s := by
  cases hc <;> rfl

/-! The notifier options: the two channels share one answer, each with its own handle (R176, R177). -/

/-- The answer of a notifier option on the handle held now; `write` gives what the new handle leaves of the block. -/
def answerNotifier (held id : Word) (write : Word → Instance) (s : State) : Host.Outcome State Fault Refusal :=
  match changeNotifier held id with
  | .error e => respond e 0#32 s
  | .ok h => respond .ok 0#32 (s.setInst (write h))

theorem exec_cfgPrntf_of_opened (id : Word) (hi : s.inst = some i) :
    exec (.cfgPrntf id) s = answerNotifier i.prNotifier id ({ i with prNotifier := · }) s :=
  whenOpen_opened hi

theorem exec_cfgMvntf_of_opened (id : Word) (hi : s.inst = some i) :
    exec (.cfgMvntf id) s = answerNotifier i.moveNotifier id ({ i with moveNotifier := · }) s :=
  whenOpen_opened hi

/-- Install and remove, each with its error. -/
theorem answerNotifier_eq (held id : Word) (write : Word → Instance) (s : State) :
    answerNotifier held id write s =
      if id ≠ 0#32 then
        if held ≠ 0#32 then .next { s with response := some ⟨.signalAlreadyInstalled, 0#32⟩ }
        else .next { s with inst := some (write id), response := some ⟨.ok, 0#32⟩ }
      else
        if held = 0#32 then .next { s with response := some ⟨.signalNotInstalled, 0#32⟩ }
        else .next { s with inst := some (write 0#32), response := some ⟨.ok, 0#32⟩ } := by
  rw [answerNotifier]
  rcases changeNotifier_cases held id with ⟨hid, hheld, h⟩ | ⟨hid, hheld, h⟩ | ⟨hid, hheld, h⟩ | ⟨hid, hheld, h⟩
  · rw [h, if_pos hid, if_pos hheld]; rfl
  · rw [h, if_pos hid, if_neg (not_not.mpr hheld)]; rfl
  · rw [h, if_neg (not_not.mpr hid), if_pos hheld]; rfl
  · rw [h, if_neg (not_not.mpr hid), if_neg hheld]; rfl

end

/-- Settles O27: enabling makes three accesses in order before it sets `irqActive`, disabling one write. -/
theorem globalInterruptEnable : Obligations.GlobalInterruptEnable := by
  refine ⟨decode_option 0x00#8, fun s v => ⟨whenOpen_closed, fun i hi hv => ?_, ?_⟩⟩
  · refine ⟨_, exec_cfgGlobal_of_ne_zero hi hv, ?_⟩
    have htrace := enable_trace (s := s) (evAll.setWidth 32) (i.enableMask.setWidth 32)
    rw [State.setInst, htrace]
    rfl
  · rintro i hi rfl
    exact exec_cfgGlobal_zero hi

/-- Settles O28: each of the four options is `SetEventEnable` on its own bit. -/
theorem perEventInterruptEnables : Obligations.PerEventInterruptEnables := by
  refine ⟨fun v => ⟨decode_option 0x01#8 v, decode_option 0x02#8 v, decode_option 0x03#8 v, decode_option 0x04#8 v⟩, ?_⟩
  intro s v c b hcb
  have hc : EventOption c b v := by
    rcases hcb with ⟨rfl, rfl⟩ | ⟨rfl, rfl⟩ | ⟨rfl, rfl⟩ | ⟨rfl, rfl⟩
    · exact .press v
    · exact .release v
    · exact .up v
    · exact .down v
  rw [hc.exec_eq]
  exact ⟨whenOpen_closed, fun _ => setEventEnable_of_opened b v⟩

/-- Settles O29: the shared answer of the notifier options, on the press/release handle. -/
theorem pressReleaseNotifierOption : Obligations.PressReleaseNotifierOption :=
  ⟨decode_option 0x05#8, fun s id => ⟨whenOpen_closed, fun _ hi =>
    (exec_cfgPrntf_of_opened id hi).trans (answerNotifier_eq _ id _ s)⟩⟩

/-- Settles O30: the shared answer of the notifier options, on the move handle. -/
theorem moveNotifierOption : Obligations.MoveNotifierOption :=
  ⟨decode_option 0x06#8, fun s id => ⟨whenOpen_closed, fun _ hi =>
    (exec_cfgMvntf_of_opened id hi).trans (answerNotifier_eq _ id _ s)⟩⟩

/-- Settles O31: every option from 0x07 on decodes to CFG.UNKNOWN, which only answers. -/
theorem unknownOptionIsAnswered : Obligations.UnknownOptionIsAnswered := by
  refine ⟨fun opt v hopt => ?_, fun s opt => ⟨whenOpen_closed, fun _ => exec_cfgUnknown_opened opt⟩⟩
  rw [decode_option, decodeOption_of_unlisted v hopt]

end Sys2Proof.Machine
end

section
/-! PROOFS. The statements of 46_lifecycle.md: OPEN (R190), CLOSE (R191), QUERY_INFO (R193), the data operations (R194 to R197) and the
refusals of R192. -/

namespace Sys2Proof.Machine

/-! The command words of these rows: the code alone selects the command, and only OPEN has operands (R72, R74). -/

section
variable (opt : BitVec 8) (v : Word)

theorem decode_open : decode ⟨0x01#8 ++ opt, v⟩ = .ok (.openInst (opt.extractLsb' 0 4) v) := by
  simp only [decode, Command.op_of_append, Command.opt_of_append]

theorem decode_close : decode ⟨0x02#8 ++ opt, v⟩ = .ok .close := by
  simp only [decode, Command.op_of_append]

theorem decode_queryInfo : decode ⟨0x06#8 ++ opt, v⟩ = .ok .queryInfo := by
  simp only [decode, Command.op_of_append]

theorem decode_read : decode ⟨0x07#8 ++ opt, v⟩ = .ok .read := by
  simp only [decode, Command.op_of_append]

theorem decode_write : decode ⟨0x08#8 ++ opt, v⟩ = .ok .write := by
  simp only [decode, Command.op_of_append]

theorem decode_blockRead : decode ⟨0x09#8 ++ opt, v⟩ = .ok .blockRead := by
  simp only [decode, Command.op_of_append]

theorem decode_blockWrite : decode ⟨0x0A#8 ++ opt, v⟩ = .ok .blockWrite := by
  simp only [decode, Command.op_of_append]

end

section
variable {s : State} {i : Instance} {c : Instr}

/-! What the lifecycle commands answer, by the lifecycle state (R190, R191, R193). -/

theorem exec_open_of_opened (en : BitVec 4) (depth : Word) (hi : s.inst = some i) :
    exec (.openInst en depth) s = .refused .alreadyOpen := by
  simp only [exec, execOpen, hi]

/-- A depth above the storage is answered, not refused, and nothing is opened. -/
theorem exec_open_of_noStorage {depth : Word} (en : BitVec 4) (hi : s.inst = none)
    (hd : s.params.queueMaxDepth < depthOf depth) :
    exec (.openInst en depth) s = .next { s with response := some ⟨.allocationFailure, 0#32⟩ } := by
  simp only [exec, execOpen, hi, if_pos hd, respond_eq]

/-- With storage for it a fresh instance is opened, with the device's interrupts off. -/
theorem exec_open_of_storage {depth : Word} (en : BitVec 4) (hi : s.inst = none)
    (hd : depthOf depth ≤ s.params.queueMaxDepth) :
    exec (.openInst en depth) s = .next { s with
      inst := some (freshInstance (depthOf depth) en)
      opens := s.opens + 1
      trace := s.trace ++ [.write offIen 0#32]
      response := some ⟨.ok, BitVec.ofNat 32 (depthOf depth)⟩ } := by
  simp only [exec, execOpen, hi, if_neg (Nat.not_lt.mpr hd), respond_eq, memWrite, State.setInst]

theorem exec_close_of_opened (hi : s.inst = some i) :
    exec .close s =
      .next { s with inst := none, trace := s.trace ++ [.write offIen 0#32], response := some ⟨.ok, 0#32⟩ } :=
  whenOpen_opened hi

theorem descriptorWord_eq : descriptorWord = 0x03100101#32 := by decide

theorem exec_queryInfo (s : State) : exec .queryInfo s = .next { s with response := some ⟨.ok, descriptorWord⟩ } :=
  respond_eq ..

/-! What the check at the head of every other rule decides (R192). -/

/-- While CLOSED only OPEN and QUERY_INFO have a meaning. -/
theorem exec_of_closed (hi : s.inst = none) (hopen : ∀ en depth, c ≠ .openInst en depth) (hinfo : c ≠ .queryInfo) :
    exec c s = .refused .notOpen := by
  cases c
  case openInst en depth => exact absurd rfl (hopen en depth)
  case queryInfo => exact absurd rfl hinfo
  all_goals exact whenOpen_closed hi

/-- While OPEN a command that always fails answers its error and does nothing else (R178, R194 to R197). -/
theorem AlwaysFails.exec_eq {r : ResultCode} (hc : AlwaysFails c r) (hi : s.inst = some i) :
    exec c s = .next { s with response := some ⟨r, 0#32⟩ } := by
  cases hc <;> exact whenOpen_opened hi

end

/-- Settles O18: OPEN is refused, fails for want of storage, or makes a fresh instance of the depth asked for. -/
theorem openCommand : Obligations.OpenCommand :=
  ⟨decode_open, fun _ en depth => ⟨fun _ => exec_open_of_opened en depth, exec_open_of_noStorage en,
    fun hi hd => ⟨_, _, exec_open_of_storage en hi hd, rfl⟩⟩⟩

/-- Settles O19: the check of R192, then one write and no instance. -/
theorem closeCommand : Obligations.CloseCommand :=
  ⟨decode_close, fun _ => ⟨whenOpen_closed, fun _ => exec_close_of_opened⟩⟩

/-- Settles O20: QUERY_INFO checks no lifecycle and answers the descriptor word, whose fields are read off its value. -/
theorem queryInfoCommand : Obligations.QueryInfoCommand := by
  refine ⟨decode_queryInfo, fun s => ?_, ?_⟩
  · rw [exec_queryInfo, descriptorWord_eq]
  · rw [descriptorWord_eq]
    decide

/-- Settles O21: the four data operations are among the commands that always fail. -/
theorem dataOperationsAreUnsupported : Obligations.DataOperationsAreUnsupported := by
  refine ⟨fun opt v => ⟨decode_read opt v, decode_write opt v, decode_blockRead opt v, decode_blockWrite opt v⟩, ?_⟩
  intro c s hop
  have hc : AlwaysFails c .unsupportedOperation := by
    rcases hop with rfl | rfl | rfl | rfl
    · exact .read
    · exact .write
    · exact .blockRead
    · exact .blockWrite
  refine ⟨fun hi => exec_of_closed hi ?_ ?_, fun _ => hc.exec_eq⟩
  · rintro en depth rfl
    cases hc
  · rintro rfl
    cases hc

/-- Settles O22: every rule but those of OPEN and QUERY_INFO begins with the check that an instance is open, OPEN's with the
check that none is. -/
theorem lifecycleRefusals : Obligations.LifecycleRefusals :=
  ⟨fun _ _ => exec_of_closed, fun _ _ en depth => exec_open_of_opened en depth⟩

end Sys2Proof.Machine
end

section
/-! PROOFS. The statements of 40_queue.md on the ring as a bounded list: what a push appends (R102), the order of the words
(R104), the bound of N - 1 words (R105), and that no unwritten slot is read (R25). -/

namespace Sys2Proof.Machine

section
variable {p : Params} {i : Instance}

@[simp] theorem Instance.enqueued_slotCount (w : Word) : (i.enqueued w).slotCount = i.slotCount := rfl
@[simp] theorem Instance.enqueued_slots (w : Word) : (i.enqueued w).slots = slotWrite i.slots i.inIdx w := rfl
@[simp] theorem Instance.enqueued_inIdx (w : Word) : (i.enqueued w).inIdx = i.nextIdx i.inIdx := rfl
@[simp] theorem Instance.enqueued_outIdx (w : Word) : (i.enqueued w).outIdx = i.outIdx := rfl

/-! Where the content lies in the ring (R28). -/

theorem Instance.count_lt (hin : i.inIdx < i.slotCount) : i.count < i.slotCount :=
  Nat.mod_lt _ (Nat.zero_lt_of_lt hin)

@[simp] theorem Instance.length_contents (n : Nat) : (i.contents n).length = i.count := by
  simp [Instance.contents]

/-- The producer index lies just after the content. -/
theorem Instance.index_count (hin : i.inIdx < i.slotCount) (hout : i.outIdx < i.slotCount) :
    (i.outIdx + i.count) % i.slotCount = i.inIdx := by
  rcases Instance.count_cases hin hout with ⟨_, h⟩ | ⟨_, h⟩
  · rw [h, Nat.mod_eq_of_lt hin]
  · rw [h, Nat.add_mod_right, Nat.mod_eq_of_lt hin]

/-- The slot a push writes holds no word of the content. -/
theorem Instance.index_ne_inIdx (hin : i.inIdx < i.slotCount) (hout : i.outIdx < i.slotCount) {k : Nat} (hk : k < i.count) :
    (i.outIdx + k) % i.slotCount ≠ i.inIdx := by
  intro h
  have hcount := Instance.count_lt hin
  have hmod : i.outIdx + k ≡ i.outIdx + i.count [MOD i.slotCount] := h.trans (Instance.index_count hin hout).symm
  exact hk.ne ((hmod.add_left_cancel' i.outIdx).eq_of_lt_of_lt (hk.trans hcount) hcount)

/-- Full is N - 1 words (R28, R100). -/
theorem Instance.full_iff_count (hin : i.inIdx < i.slotCount) (hout : i.outIdx < i.slotCount) :
    i.full = true ↔ i.count + 1 = i.slotCount := by
  rw [Instance.full_eq_true]
  rcases Instance.count_cases hin hout with h | h <;>
    rcases Instance.nextIdx_cases hin with ⟨_, hnext⟩ | ⟨_, hnext⟩ <;> omega

theorem QueueOk.full_eq_false_iff (hq : QueueOk p i) : i.full = false ↔ i.count + 1 < i.slotCount := by
  have hcount := Instance.count_lt hq.inBound
  rw [← Bool.not_eq_true, Instance.full_iff_count hq.inBound hq.outBound]
  omega

/-! What a push with room leaves (R102). -/

theorem QueueOk.count_enqueued (hq : QueueOk p i) (hf : i.full = false) (w : Word) :
    (i.enqueued w).count = i.count + 1 := by
  have hroom := hq.full_eq_false_iff.mp hf
  have hin := hq.inBound
  have hbefore := Instance.count_cases hin hq.outBound
  have hafter := Instance.count_cases (i := i.enqueued w) (Instance.nextIdx_lt hin) hq.outBound
  simp only [Instance.enqueued_slotCount, Instance.enqueued_inIdx, Instance.enqueued_outIdx] at hafter
  rcases Instance.nextIdx_cases hin with ⟨_, hnext⟩ | ⟨_, hnext⟩ <;> omega

/-- The word pushed ends the content; the words before it are in other slots. -/
theorem QueueOk.contents_enqueued (hq : QueueOk p i) (hf : i.full = false) (n : Nat) (w : Word) :
    (i.enqueued w).contents n = i.contents n ++ [w] := by
  have hlast := Instance.index_count hq.inBound hq.outBound
  have hother : ∀ k ∈ List.range i.count,
      slotRead n (slotWrite i.slots i.inIdx w) ((i.outIdx + k) % i.slotCount) =
        slotRead n i.slots ((i.outIdx + k) % i.slotCount) := fun k hk =>
    slotRead_slotWrite_other n i.slots w (Instance.index_ne_inIdx hq.inBound hq.outBound (List.mem_range.mp hk))
  simp only [Instance.contents, hq.count_enqueued hf, List.range_succ, List.map_append, List.map_cons, List.map_nil,
    Instance.enqueued_slots, Instance.enqueued_outIdx, Instance.enqueued_slotCount, hlast, slotRead_slotWrite_same]
  rw [List.map_congr_left hother]

/-- A push with room keeps the queue sound. -/
theorem QueueOk.enqueued (hq : QueueOk p i) (hf : i.full = false) (w : Word) : QueueOk p (i.enqueued w) where
  minSlots := hq.minSlots
  maxSlots := hq.maxSlots
  inBound := Instance.nextIdx_lt hq.inBound
  outBound := hq.outBound
  canonical := slotWrite_wf i.slots i.inIdx w hq.canonical
  slotBound e he := by
    rcases mem_slotWrite he with rfl | hold
    · exact hq.inBound
    · exact hq.slotBound e hold
  written k hk := by
    rw [hq.count_enqueued hf] at hk
    simp only [Instance.enqueued_slots, Instance.enqueued_outIdx, Instance.enqueued_slotCount]
    rcases Nat.lt_succ_iff_lt_or_eq.mp hk with hlt | rfl
    · rw [slotLookup_slotWrite_other _ _ (Instance.index_ne_inIdx hq.inBound hq.outBound hlt)]
      exact hq.written k hlt
    · rw [Instance.index_count hq.inBound hq.outBound, slotLookup_slotWrite_same]
      rfl

/-! The two operations of a sound queue, each as the operation on its content. -/

/-- A push appends if the content has room, and fails if not. -/
theorem QueueOk.push_cases (hq : QueueOk p i) (n : Nat) (w : Word) :
    (i.count < i.slotCount - 1 ∧ ∃ j, push i w = some j ∧ QueueOk p j ∧ j.slotCount = i.slotCount ∧
      j.contents n = i.contents n ++ [w]) ∨
    (¬ i.count < i.slotCount - 1 ∧ push i w = none) := by
  cases hf : i.full with
  | false =>
    have hroom := hq.full_eq_false_iff.mp hf
    exact .inl ⟨by omega, i.enqueued w, push_of_not_full w hf, hq.enqueued hf w, rfl, hq.contents_enqueued hf n w⟩
  | true =>
    have hfull := (Instance.full_iff_count hq.inBound hq.outBound).mp hf
    exact .inr ⟨by omega, push_eq_none.mpr hf⟩

/-- A pop takes the head of the content, and gives none if there is none. -/
theorem QueueOk.pop_cases (hq : QueueOk p i) (n : Nat) :
    (i.contents n = [] ∧ pop n i = none) ∨
    ∃ w j, i.contents n = w :: j.contents n ∧ pop n i = some (w, j) ∧ QueueOk p j ∧ j.slotCount = i.slotCount := by
  cases he : i.empty with
  | true => exact .inl ⟨(hq.contents_eq_nil_iff n).mpr he, pop_eq_none.mpr he⟩
  | false =>
    exact .inr ⟨_, i.dequeued, Instance.contents_eq_cons n hq.inBound hq.outBound he, pop_of_not_empty n he,
      hq.dequeued he, rfl⟩

/-! Unwritten slots (R25). -/

theorem slotRead_of_written {m : Slots} {k : Nat} (h : (slotLookup m k).isSome = true) (n n' : Nat) :
    slotRead n m k = slotRead n' m k := by
  obtain ⟨w, hw⟩ := Option.isSome_iff_exists.mp h
  rw [slotRead_of_lookup hw, slotRead_of_lookup hw]

theorem QueueOk.contents_eq (hq : QueueOk p i) (n n' : Nat) : i.contents n = i.contents n' :=
  List.map_congr_left fun k hk => slotRead_of_written (hq.written k (List.mem_range.mp hk)) n n'

end

/-! Runs of operations. -/

/-- The words pushed in a row are those the content ends with, if they all fit; if not, some push fails (R105). -/
theorem pushAll_cases {p : Params} (n : Nat) (ws : List Word) :
    ∀ {i : Instance}, QueueOk p i →
      (i.count + ws.length < i.slotCount ∧ ∃ j, pushAll ws i = some j ∧ QueueOk p j ∧ j.slotCount = i.slotCount ∧
        j.contents n = i.contents n ++ ws) ∨
      (i.slotCount ≤ i.count + ws.length ∧ pushAll ws i = none) := by
  induction ws with
  | nil =>
    intro i hq
    exact .inl ⟨Instance.count_lt hq.inBound, i, rfl, hq, rfl, (List.append_nil _).symm⟩
  | cons w ws ih =>
    intro i hq
    rcases hq.push_cases n w with ⟨_, j, hpush, hj, hN, hcontents⟩ | ⟨hfull, hpush⟩
    · have hcount : j.count = i.count + 1 := by
        rw [← Instance.length_contents n, hcontents, List.length_append, Instance.length_contents, List.length_singleton]
      have hrun : pushAll (w :: ws) i = pushAll ws j := by rw [pushAll, hpush, Option.bind_some]
      rw [hrun, List.length_cons]
      rcases ih hj with ⟨hroom, k, hk, hqk, hNk, hck⟩ | ⟨hno, hk⟩
      · exact .inl ⟨by omega, k, hk, hqk, hNk.trans hN, by rw [hck, hcontents, List.append_assoc, List.singleton_append]⟩
      · exact .inr ⟨by omega, hk⟩
    · exact .inr ⟨by rw [List.length_cons]; omega, by rw [pushAll, hpush, Option.bind_none]⟩

/-- Popping as often as there are words returns them and empties the queue; once more returns none (R105). -/
theorem popAll_contents {p : Params} {n : Nat} {ws : List Word} :
    ∀ {i : Instance}, QueueOk p i → i.contents n = ws →
      popAll n (ws.length + 1) i = (ws.map some ++ [none], (popAll n ws.length i).2) ∧
        (popAll n ws.length i).2.empty = true := by
  induction ws with
  | nil =>
    intro i hq hc
    have he := (hq.contents_eq_nil_iff n).mp hc
    exact ⟨by simp [popAll, pop_eq_none.mpr he], he⟩
  | cons w ws ih =>
    intro i hq hc
    rcases hq.pop_cases n with ⟨hnil, _⟩ | ⟨v, j, hcons, hpop, hj, _⟩
    · cases hnil.symm.trans hc
    · obtain ⟨rfl, hrest⟩ := List.cons.inj (hcons.symm.trans hc)
      obtain ⟨hwords, hempty⟩ := ih hj hrest
      have hstep : ∀ k, popAll n (k + 1) i = (some v :: (popAll n k j).1, (popAll n k j).2) := fun k => by
        rw [popAll, hpop]
      rw [List.length_cons, hstep, hwords, hstep]
      exact ⟨rfl, hempty⟩

/-- Settles O15, by induction on the operations: each acts on the content of a sound queue as on the list, and leaves a sound
queue of as many slots. -/
theorem queueRefinesAList : Obligations.QueueRefinesAList := by
  intro p n i ops
  induction ops generalizing i with
  | nil => exact fun hq => ⟨rfl, rfl, hq⟩
  | cons op ops ih =>
    intro hq
    cases op with
    | push w =>
      simp only [runQueue, runList, Instance.length_contents]
      rcases hq.push_cases n w with ⟨hroom, j, hpush, hj, hN, hcontents⟩ | ⟨hfull, hpush⟩
      · rw [if_pos hroom, hpush, Option.getD_some, ← hN, ← hcontents]
        exact ih j hj
      · rw [if_neg hfull, hpush, Option.getD_none]
        exact ih i hq
    | pop =>
      rcases hq.pop_cases n with ⟨hnil, hpop⟩ | ⟨w, j, hcons, hpop, hj, hN⟩
      · have h := ih i hq
        rw [hnil] at h
        simp only [runQueue, hpop, hnil, runList]
        exact h
      · obtain ⟨hwords, hcontents, hok⟩ := ih j hj
        simp only [runQueue, hpop, hcons, runList, ← hN]
        exact ⟨congrArg _ hwords, hcontents, hok⟩

/-- Settles O13: there is room exactly below N - 1 words, and a push with room leaves the queue with one more word. -/
theorem pushAppendsAtTheProducerIndex : Obligations.PushAppendsAtTheProducerIndex := by
  intro p n i w hq
  refine ⟨fun hroom => ?_, fun hcount => ?_, Instance.count_lt hq.inBound⟩
  · have hf := hq.full_eq_false_iff.mpr hroom
    exact ⟨i.enqueued w, push_of_not_full w hf, hq.enqueued hf w, hq.contents_enqueued hf n w, rfl,
      slotLookup_slotWrite_same .., fun k hk => slotLookup_slotWrite_other _ _ hk⟩
  · have hf := (Instance.full_iff_count hq.inBound hq.outBound).mpr hcount
    exact ⟨hf, push_eq_none.mpr hf⟩

/-- Settles O16: from an empty queue the content is the words pushed, so they fit below N and as many pops return them. -/
theorem queueHoldsOneLessThanItsSlots : Obligations.QueueHoldsOneLessThanItsSlots := by
  intro p n i ws hq he
  have hzero : i.count = 0 := (Instance.count_eq_zero hq.inBound hq.outBound).mpr he
  rcases pushAll_cases n ws hq with ⟨hroom, j, hpush, hj, hN, hcontents⟩ | ⟨hfull, hpush⟩
  · have hws : j.contents n = ws := by
      rw [hcontents, (hq.contents_eq_nil_iff n).mpr he, List.nil_append]
    refine ⟨fun hlen => by omega, fun _ => ⟨j, hpush, fun hlen => ?_, popAll_contents hj hws⟩⟩
    rw [Instance.full_iff_count hj.inBound hj.outBound, ← Instance.length_contents n, hws, hN, hlen]
  · exact ⟨fun _ => hpush, fun hlen => by omega⟩

/-- Settles O17: the content, and so the word a pop takes, lies in slots that a push has written. -/
theorem unwrittenSlotsAreNeverRead : Obligations.UnwrittenSlotsAreNeverRead := by
  intro p n m i hq
  have hcontents := hq.contents_eq n m
  refine ⟨hcontents, ?_⟩
  cases he : i.empty with
  | true => rw [pop_eq_none.mpr he, pop_eq_none.mpr he]
  | false =>
    have hcons := fun k => Instance.contents_eq_cons k hq.inBound hq.outBound he
    rw [hcons n, hcons m] at hcontents
    rw [pop_of_not_empty n he, pop_of_not_empty m he, (List.cons.inj hcontents).1]

end Sys2Proof.Machine
end

section
/-! PROOFS. The invariants that every step keeps (10_state.md): the hardware mirror (R31), the bounds of the queue (R24 to R28)
and the legality of the queued words (R81), with the words that READ_STATUS returns. -/

namespace Sys2Proof.Machine

/-- An invariant that does not look at the port and that every completed command keeps is kept by every step. -/
theorem step_keeps {P : State → Prop} {s t : State} (hport : ∀ rest, P { s with port := rest })
    (hexec : ∀ {c : Instr} {s' : State}, P s' → Effect s' c t → P t) (h : step s = .next t) : P t := by
  rcases step_eq_next h with ⟨_, rfl⟩ | ⟨_, rest, _, _, _, hx⟩
  · exact hport t.port
  · exact hexec (hport rest) (exec_effect hx)

/-! The hardware mirror (R31). -/

/-- What the device's enable register holds while i is open (R31). -/
def Instance.shadow (i : Instance) : Word := if i.irqActive then i.enableMask.setWidth 32 else 0#32

section
variable (es es' : List Event) (off : Nat) (v : Word) (ch : Channel)

theorem ienShadow_concat (e : Event) : ienShadow (es ++ [e]) = (ienShadow [e]).or (ienShadow es) := by
  simp only [ienShadow, List.foldl_append, List.foldl_cons, List.foldl_nil]
  cases e with
  | read | notify => rfl
  | write off v =>
    by_cases h : off = offIen
    · simp [h]
    · simp [h]

/-- The last write of a record is the last of its end, if that has one. -/
@[simp] theorem ienShadow_append : ienShadow (es ++ es') = (ienShadow es').or (ienShadow es) := by
  induction es' using List.reverseRecOn with
  | nil => rw [List.append_nil]; rfl
  | append_singleton es' e ih =>
    rw [← List.append_assoc, ienShadow_concat, ih, ienShadow_concat, Option.or_assoc]

@[simp] theorem ienShadow_nil : ienShadow [] = none := rfl
@[simp] theorem ienShadow_cons_read : ienShadow (.read off v :: es) = ienShadow es := rfl
@[simp] theorem ienShadow_cons_notify : ienShadow (.notify ch v :: es) = ienShadow es := rfl
@[simp] theorem ienShadow_cons_ack : ienShadow (.write offIstat v :: es) = ienShadow es := rfl
@[simp] theorem ienShadow_cons_enable : ienShadow (.write offIen v :: es) = (ienShadow es).or (some v) :=
  ienShadow_append [.write offIen v] es

@[simp] theorem ienShadow_notices : ienShadow (notices ch v) = none := by
  unfold notices
  split <;> rfl

end

/-- A capture keeps the mirror: it writes 0 to the enable register exactly when it stops interrupts (R143). -/
theorem CaptureEffect.shadow_eq {i j : Instance} {s : State} {ws : List Event} (hc : CaptureEffect i s j ws) :
    (ienShadow ws).or (some i.shadow) = some j.shadow := by
  cases hc <;> rfl

theorem mirror_iff {s : State} : Mirror s ↔ ∀ i, s.inst = some i → ienShadow s.trace = some i.shadow := Iff.rfl

/-- A command keeps the mirror: one that changes `irqActive`, or the mask while active, writes the register. -/
theorem Effect.mirror {c : Instr} {s t : State} (hm : Mirror s) (he : Effect s c t) : Mirror t := by
  rw [mirror_iff] at hm ⊢
  intro j hj
  cases he with
  | info | noStorage | notifierError | fails | notThisDevice => simp [hm j hj]
  | opened | disabled => cases hj; simp [Instance.shadow, freshInstance]
  | closed => cases hj
  | enabled => cases hj; simp [Instance.shadow]
  | event _ _ _ i _ _ hi =>
    cases hj
    have hold := hm i hi
    cases ha : i.irqActive with
    | false => simpa [Instance.shadow, ha] using hold
    | true => simp [Instance.shadow]
  | prNotifier _ i hi | moveNotifier _ i hi | errorRead i hi | wordRead i hi | moved i hi =>
    cases hj
    simpa [Instance.shadow] using hm i hi
  | pollFoundNone i j ws hi _ _ hc | pollFoundWord i j ws hi _ _ hc | pressed i j ws hi _ hc =>
    cases hj
    have hnew := hc.shadow_eq
    simpa [hm i hi, Instance.shadow, captureState] using hnew

/-- Settles O53: the mirror reads the record alone, and every command keeps it. -/
theorem mirrorIsKept : Obligations.MirrorIsKept :=
  fun _ _ hm => step_keeps (fun _ => hm) Effect.mirror

/-! What a command does to the queue (R102, R103, R142, R163). -/

/-- Two instances with the same queue: only elements outside it differ. -/
structure SameQueue (i j : Instance) : Prop where
  slotCount : j.slotCount = i.slotCount
  slots : j.slots = i.slots
  inIdx : j.inIdx = i.inIdx
  outIdx : j.outIdx = i.outIdx

theorem SameQueue.count_eq {i j : Instance} (h : SameQueue i j) : j.count = i.count := by
  simp only [Instance.count, h.slotCount, h.inIdx, h.outIdx]

theorem SameQueue.contents_eq {i j : Instance} (h : SameQueue i j) (n : Nat) : j.contents n = i.contents n := by
  simp only [Instance.contents, h.count_eq, h.slotCount, h.slots, h.outIdx]

theorem SameQueue.queueOk {p : Params} {i j : Instance} (h : SameQueue i j) (hq : QueueOk p i) : QueueOk p j where
  minSlots := h.slotCount ▸ hq.minSlots
  maxSlots := h.slotCount ▸ hq.maxSlots
  inBound := by rw [h.slotCount, h.inIdx]; exact hq.inBound
  outBound := by rw [h.slotCount, h.outIdx]; exact hq.outBound
  canonical := h.slots ▸ hq.canonical
  slotBound := by rw [h.slotCount, h.slots]; exact hq.slotBound
  written := by rw [h.count_eq, h.slotCount, h.slots, h.outIdx]; exact hq.written

/-- A word that a capture may push at a position width: composed of two device reads, and not 0 (R140 step 3, R141). -/
def Captureable (W : PosWidth) (w : Word) : Prop := w ≠ 0#32 ∧ ∃ status pos, w = captureWord W status pos

/-- What a command leaves of an open instance's queue, by what it does to the queue. -/
inductive QueueEffect (W : PosWidth) (i j : Instance) : Prop where
  | kept (h : SameQueue i j)
  | pushed (w : Word) (hw : Captureable W w) (hf : i.full = false) (h : SameQueue (i.enqueued w) j)
  | popped (he : i.empty = false) (h : SameQueue i.dequeued j)
  | pushedAndPopped (w : Word) (hw : Captureable W w) (hf : i.full = false) (he : (i.enqueued w).empty = false)
      (h : SameQueue (i.enqueued w).dequeued j)

theorem QueueEffect.congr {W : PosWidth} {i j k : Instance} (hq : QueueEffect W i j) (h : SameQueue j k) :
    QueueEffect W i k := by
  have htrans : ∀ {l : Instance}, SameQueue l j → SameQueue l k := fun hl =>
    ⟨h.slotCount.trans hl.slotCount, h.slots.trans hl.slots, h.inIdx.trans hl.inIdx, h.outIdx.trans hl.outIdx⟩
  cases hq with
  | kept hs => exact .kept (htrans hs)
  | pushed w hw hf hs => exact .pushed w hw hf (htrans hs)
  | popped he hs => exact .popped he (htrans hs)
  | pushedAndPopped w hw hf he hs => exact .pushedAndPopped w hw hf he (htrans hs)

/-- A capture pushes at most one word. -/
theorem CaptureEffect.queueEffect {i j : Instance} {s : State} {ws : List Event} (hc : CaptureEffect i s j ws) :
    QueueEffect s.params.posWidth i j := by
  cases hc with
  | noEvent | stopped => exact .kept ⟨rfl, rfl, rfl, rfl⟩
  | stored w hw heq hf => exact .pushed w ⟨hw, _, _, heq⟩ hf ⟨rfl, rfl, rfl, rfl⟩

/-- A capture after which a queue that was empty is not has pushed the word it composed. -/
theorem CaptureEffect.stored_of_not_empty {i j : Instance} {s : State} {ws : List Event} (hc : CaptureEffect i s j ws)
    (he : i.empty = true) (hj : j.empty = false) :
    ∃ w, Captureable s.params.posWidth w ∧ i.full = false ∧ j = i.enqueued w := by
  cases hc with
  | noEvent | stopped => cases he.symm.trans hj
  | stored w hw heq hf => exact ⟨w, ⟨hw, _, _, heq⟩, hf, rfl⟩

/-- After a completed command the queue is a fresh one, or what the command made of the one before. -/
theorem Effect.queueEffect {c : Instr} {s t : State} {j : Instance} (he : Effect s c t) (hj : t.inst = some j) :
    (∃ en depth, c = .openInst en depth ∧ depthOf depth ≤ s.params.queueMaxDepth ∧
      j = freshInstance (depthOf depth) en) ∨
    ∃ i, s.inst = some i ∧ t.opens = s.opens ∧ QueueEffect s.params.posWidth i j := by
  cases he with
  | info | noStorage | notifierError | fails | notThisDevice => exact .inr ⟨j, hj, rfl, .kept ⟨rfl, rfl, rfl, rfl⟩⟩
  | opened en depth _ hd => cases hj; exact .inl ⟨en, depth, rfl, hd, rfl⟩
  | closed => cases hj
  | enabled _ i hi | disabled i hi | event _ _ _ i _ _ hi | prNotifier _ i hi | moveNotifier _ i hi | errorRead i hi
  | moved i hi => cases hj; exact .inr ⟨i, hi, rfl, .kept ⟨rfl, rfl, rfl, rfl⟩⟩
  | wordRead i hi _ hne => cases hj; exact .inr ⟨i, hi, rfl, .popped hne ⟨rfl, rfl, rfl, rfl⟩⟩
  | pollFoundNone i _ _ hi _ _ hc => cases hj; exact .inr ⟨i, hi, rfl, hc.queueEffect⟩
  | pollFoundWord i k _ hi _ hie hc hk =>
    obtain ⟨w, hw, hf, rfl⟩ := hc.stored_of_not_empty hie hk
    cases hj
    exact .inr ⟨i, hi, rfl, .pushedAndPopped w hw hf hk ⟨rfl, rfl, rfl, rfl⟩⟩
  | pressed i k _ hi _ hc => cases hj; exact .inr ⟨i, hi, rfl, hc.queueEffect.congr ⟨rfl, rfl, rfl, rfl⟩⟩

/-! The bounds of the queue. -/

theorem two_le_depthOf (depth : Word) : 2 ≤ depthOf depth := by
  unfold depthOf defaultDepth minDepth
  split
  · decide
  · split
    · decide
    · rename_i h0 h1
      have h0' : depth.toNat ≠ 0 := fun h => h0 (BitVec.eq_of_toNat_eq h)
      have h1' : depth.toNat ≠ 1 := fun h => h1 (BitVec.eq_of_toNat_eq h)
      omega

theorem freshInstance_count (d : Nat) (en : BitVec 4) : (freshInstance d en).count = 0 := by
  simp [Instance.count, freshInstance]

theorem freshInstance_queueOk {p : Params} {d : Nat} (en : BitVec 4) (hmin : 2 ≤ d) (hmax : d ≤ p.queueMaxDepth) :
    QueueOk p (freshInstance d en) where
  minSlots := hmin
  maxSlots := hmax
  inBound := Nat.zero_lt_of_lt hmin
  outBound := Nat.zero_lt_of_lt hmin
  canonical := slots_nil_wf
  slotBound := fun _ he => nomatch he
  written k hk := by
    rw [freshInstance_count] at hk
    exact absurd hk (Nat.not_lt_zero k)

theorem QueueEffect.queueOk {W : PosWidth} {p : Params} {i j : Instance} (h : QueueEffect W i j) (hq : QueueOk p i) :
    QueueOk p j := by
  cases h with
  | kept h => exact h.queueOk hq
  | pushed w _ hf h => exact h.queueOk (hq.enqueued hf w)
  | popped he h => exact h.queueOk (hq.dequeued he)
  | pushedAndPopped w _ hf he h => exact h.queueOk ((hq.enqueued hf w).dequeued he)

theorem Effect.queueInv {c : Instr} {s t : State} (hq : QueueInv s) (he : Effect s c t) : QueueInv t := by
  intro j hj
  rw [he.params_eq]
  rcases he.queueEffect hj with ⟨en, depth, _, hd, rfl⟩ | ⟨i, hi, _, hqueue⟩
  · exact freshInstance_queueOk en (two_le_depthOf depth) hd
  · exact hqueue.queueOk (hq i hi)

/-- Settles O54: a fresh queue is sound, and a command only pushes with room and pops a word that is there. -/
theorem queueBoundsAreKept : Obligations.QueueBoundsAreKept :=
  fun _ _ hq => step_keeps (fun _ => hq) Effect.queueInv

/-! The legality of the words (R80, R81). -/

/-- A word that a capture may push is legal: each clause of R81 is one of the encoder's layout. -/
theorem Captureable.legalWord {W : PosWidth} {w : Word} (h : Captureable W w) : LegalWord W w := by
  obtain ⟨hw, status, pos, rfl⟩ := h
  have hW := posWidth_bits_le W
  unfold captureWord at hw ⊢
  refine ⟨encodeStatus_extractLsb'_eq_zero W _ _ _ pos 27 5 (by omega) (by omega), ?_, ?_, fun hmoved => ?_⟩
  · rw [encodeStatus_pressed, encodeStatus_released, encodeStatus_moved]
    by_contra hflags
    simp only [Bool.or_eq_true, not_or, Bool.not_eq_true] at hflags
    obtain ⟨⟨hp, hr⟩, hm⟩ := hflags
    exact hw ((encodeStatus_eq_zero ..).mpr ⟨hp, hr, hm⟩)
  · rintro rfl
    exact encodeStatus_extractLsb'_eq_zero .w16 _ _ _ pos 16 8 (by decide) (by decide)
  · rw [encodeStatus_moved] at hmoved
    refine BitVec.eq_of_getLsbD_eq fun k _ => ?_
    rw [BitVec.getLsbD_and, getLsbD_mask, BitVec.getLsbD_zero]
    by_cases hk : k < W.bits
    · rw [getLsbD_encodeStatus_position _ _ _ pos hk, hmoved, Bool.false_and, Bool.false_and]
    · simp [hk]

theorem LegalWord.ne_zero {W : PosWidth} {w : Word} (h : LegalWord W w) : w ≠ 0#32 := by
  rintro rfl
  exact h.flags BitVec.zero_and

/-- Every word a queue holds after a command was there before it or is a captured one. -/
theorem QueueEffect.mem_contents {W : PosWidth} {p : Params} {i j : Instance} {n : Nat} {w : Word} (h : QueueEffect W i j)
    (hq : QueueOk p i) (hw : w ∈ j.contents n) : w ∈ i.contents n ∨ Captureable W w := by
  have hpushed : ∀ {v : Word}, Captureable W v → i.full = false → w ∈ (i.enqueued v).contents n →
      w ∈ i.contents n ∨ Captureable W w := fun {v} hv hf hmem => by
    rw [hq.contents_enqueued hf, List.mem_append, List.mem_singleton] at hmem
    exact hmem.imp_right fun h => by rw [h]; exact hv
  have hpopped : ∀ {k : Instance}, QueueOk p k → k.empty = false → w ∈ k.dequeued.contents n → w ∈ k.contents n :=
    fun {k} hk he hmem => by
      rw [Instance.contents_eq_cons n hk.inBound hk.outBound he]
      exact List.mem_cons_of_mem _ hmem
  cases h with
  | kept h => exact .inl (h.contents_eq n ▸ hw)
  | pushed v hv hf h => exact hpushed hv hf (h.contents_eq n ▸ hw)
  | popped he h => exact .inl (hpopped hq he (h.contents_eq n ▸ hw))
  | pushedAndPopped v hv hf he h => exact hpushed hv hf (hpopped (hq.enqueued hf v) he (h.contents_eq n ▸ hw))

theorem Effect.wordsLegal {c : Instr} {s t : State} (hq : QueueInv s) (hl : WordsLegal s) (he : Effect s c t) :
    WordsLegal t := by
  intro j hj w hw
  rw [he.params_eq]
  rcases he.queueEffect hj with ⟨en, depth, _, _, rfl⟩ | ⟨i, hi, hopens, hqueue⟩
  · rw [Instance.contents_eq_nil.mpr (freshInstance_count ..)] at hw
    cases hw
  · rw [hopens] at hw
    exact (hqueue.mem_contents (hq i hi) hw).elim (hl i hi w) Captureable.legalWord

/-- Settles O55: the words queued are captured ones, which are legal, and a legal word has a flag. -/
theorem queuedWordsStayLegal : Obligations.QueuedWordsStayLegal := by
  intro s t hq hl h
  have hkept : QueueInv t ∧ WordsLegal t := step_keeps (P := fun s => QueueInv s ∧ WordsLegal s) (fun _ => ⟨hq, hl⟩)
    (fun hs he => ⟨he.queueInv hs.1, he.wordsLegal hs.1 hs.2⟩) h
  exact ⟨hkept.2, fun i hi w hw => (hkept.2 i hi w hw).ne_zero⟩

/-- Settles O56: the word returned heads the content, or is the one just captured into an empty queue. -/
theorem wordsReadAreLegal : Obligations.WordsReadAreLegal := by
  intro s t w hq hl h hr
  cases exec_effect h with
  | event _ _ _ _ _ hc | notifierError _ _ _ _ hc | fails _ _ _ _ hc => cases hc
  | errorRead | pollFoundNone => cases hr
  | wordRead i hi _ he =>
    cases hr
    refine hl i hi _ ?_
    rw [Instance.contents_eq_cons _ (hq i hi).inBound (hq i hi).outBound he]
    exact List.mem_cons_self
  | pollFoundWord i j _ hi _ hie hc hj =>
    obtain ⟨v, hv, hf, rfl⟩ := hc.stored_of_not_empty hie hj
    obtain ⟨_, hread, _⟩ := pop_eq_some.mp (pop_of_push_of_empty s.opens hie (push_of_not_full v hf))
    cases hr
    rw [← hread]
    exact hv.legalWord

/-- Settles O26: after a reset nothing is open, so there is nothing the invariants could fail of. -/
theorem invariantsHoldAtReset : Obligations.InvariantsHoldAtReset :=
  ⟨fun _ h => (nomatch h), fun _ h => (nomatch h), fun _ h => (nomatch h)⟩

end Sys2Proof.Machine
end

section
/-! PROOFS. The statements of 30_encoding.md on commands: decoding and encoding (R71 to R75, R85, R86), the rows of the opcode
table, and the assembly lines (R86, R87). -/

namespace Sys2Proof.Machine

/-! A command word is its operation code before its option code (R71). -/

theorem eq_append_of_op {cw : CmdWord} {op : BitVec 8} (h : cw.extractLsb' 8 8 = op) : cw = op ++ cw.extractLsb' 0 8 := by
  rw [← h, BitVec.extractLsb'_append_extractLsb'_eq_extractLsb' (start₁ := 0) (len₁ := 8) rfl]
  exact BitVec.extractLsb'_eq_self.symm

/-- An option code written into the low byte of a command word. -/
theorem or_setWidth_eq_append (op opt : BitVec 8) : (op ++ 0#8) ||| opt.setWidth 16 = op ++ opt := by
  refine BitVec.eq_of_getLsbD_eq fun k hk => ?_
  rw [BitVec.getLsbD_or, BitVec.getLsbD_append, BitVec.getLsbD_append, BitVec.getLsbD_setWidth]
  by_cases h : k < 8
  · simp [h, hk]
  · simp [h, BitVec.getLsbD_of_ge opt k (by omega)]

/-- OPEN's enable bits are the low half of its option code (R74). -/
theorem openWord_eq_append (en : BitVec 4) : 0x0100#16 ||| en.setWidth 16 = 0x01#8 ++ en.setWidth 8 := by
  rw [← or_setWidth_eq_append, BitVec.setWidth_setWidth (by decide)]
  rfl

theorem extractLsb'_enables (en : BitVec 4) : (en.setWidth 8).extractLsb' 0 4 = en := by
  rw [BitVec.extractLsb'_setWidth_of_le (by decide), BitVec.extractLsb'_eq_self]

theorem encode_openInst (en : BitVec 4) (depth : Word) : encode (.openInst en depth) = ⟨0x01#8 ++ en.setWidth 8, depth⟩ := by
  rw [encode, openWord_eq_append]

theorem decode_openWord (en : BitVec 4) (v : Word) : decode ⟨0x0100#16 ||| en.setWidth 16, v⟩ = .ok (.openInst en v) := by
  rw [openWord_eq_append, decode_open, extractLsb'_enables]

theorem decode_readStatus (opt : BitVec 8) (v : Word) : decode ⟨0x04#8 ++ opt, v⟩ = .ok .readStatus := by
  simp only [decode, Command.op_of_append]

theorem decode_serviceInterrupt (opt : BitVec 8) (v : Word) : decode ⟨0x05#8 ++ opt, v⟩ = .ok .serviceInterrupt := by
  simp only [decode, Command.op_of_append]

/-! The options of CONFIGURE (R73). -/

theorem listed_option : ∀ opt : BitVec 8, opt.toNat < 7 →
    opt = 0#8 ∨ opt = 1#8 ∨ opt = 2#8 ∨ opt = 3#8 ∨ opt = 4#8 ∨ opt = 5#8 ∨ opt = 6#8 := by
  decide

/-- A CONFIGURE command decodes to a well-formed one, whose encoding has the option code and, if the option is listed, the operand. -/
theorem encode_decodeOption (opt : BitVec 8) (v : Word) :
    (decodeOption opt v).wellFormed = true ∧
      encode (decodeOption opt v) = ⟨0x03#8 ++ opt, if opt.toNat < 7 then v else 0#32⟩ := by
  by_cases h : opt.toNat < 7
  · rcases listed_option opt h with rfl | rfl | rfl | rfl | rfl | rfl | rfl <;> exact ⟨rfl, rfl⟩
  · rw [decodeOption_of_unlisted v (Nat.not_lt.mp h), if_neg h, ← or_setWidth_eq_append]
    exact ⟨decide_eq_true (Nat.not_lt.mp h), rfl⟩

/-! What decodes (R72, R85). -/

/-- Only OPEN and CONFIGURE have operands; any other command is known by its operation code. -/
theorem decode_eq_ok {c : Command} {i : Instr} (h : decode c = .ok i) :
    (c.op = 0x01#8 ∧ i = .openInst (c.opt.extractLsb' 0 4) c.val) ∨ (c.op = 0x03#8 ∧ i = decodeOption c.opt c.val) ∨
    (c.op ≠ 0x01#8 ∧ c.op ≠ 0x03#8 ∧ i.wellFormed = true ∧ (encode i).op = c.op) := by
  unfold decode at h
  split at h
  case h_1 hop => cases h; exact .inl ⟨hop, rfl⟩
  case h_3 hop => cases h; exact .inr (.inl ⟨hop, rfl⟩)
  case h_11 => cases h
  all_goals
    rename_i hop
    cases h
    rw [hop]
    exact .inr (.inr ⟨by decide, by decide, rfl, rfl⟩)

/-- What decodes is well-formed and keeps its operation code. -/
theorem wellFormed_of_decode {c : Command} {i : Instr} (h : decode c = .ok i) :
    i.wellFormed = true ∧ (encode i).op = c.op := by
  rcases decode_eq_ok h with ⟨hop, rfl⟩ | ⟨hop, rfl⟩ | ⟨_, _, hwf, hop⟩
  · rw [encode_openInst, Command.op_of_append]
    exact ⟨rfl, hop.symm⟩
  · obtain ⟨hwf, hcode⟩ := encode_decodeOption c.opt c.val
    rw [hcode, Command.op_of_append]
    exact ⟨hwf, hop.symm⟩
  · exact ⟨hwf, hop⟩

theorem decode_eq_error {c : Command} {e : DecodeError} (h : decode c = .error e) : e = .reservedOp c.op := by
  unfold decode at h
  split at h <;> cases h
  rfl

/-- The operation codes that R72 lists are those that decode. -/
theorem decode_of_listedOp {c : Command} (hlow : c.op ≠ 0x00#8) (hhigh : c.op.toNat < 0x0B) : ∃ i, decode c = .ok i := by
  have hlisted : ∀ op : BitVec 8, op ≠ 0x00#8 → op.toNat < 0x0B → op = 0x01#8 ∨ op = 0x02#8 ∨ op = 0x03#8 ∨ op = 0x04#8 ∨
      op = 0x05#8 ∨ op = 0x06#8 ∨ op = 0x07#8 ∨ op = 0x08#8 ∨ op = 0x09#8 ∨ op = 0x0A#8 := by decide
  unfold decode
  rcases hlisted c.op hlow hhigh with h | h | h | h | h | h | h | h | h | h <;> rw [h] <;> exact ⟨_, rfl⟩

/-! The rows of the opcode table. -/

/-- Every row fixes a listed operation code, and only CONFIGURE's rows fix more. -/
theorem opcodeTable_rows : ∀ r ∈ opcodeTable, r.mask.extractLsb' 8 8 = 0xFF#8 ∧ r.pattern.extractLsb' 8 8 ≠ 0x00#8 ∧
    (r.pattern.extractLsb' 8 8).toNat < 0x0B ∧ (r.pattern.extractLsb' 8 8 ≠ 0x03#8 → r.mask = 0xFF#8 ++ 0x00#8) := by
  decide

/-- No word agrees with two rows that fix some bit differently. -/
theorem not_covers_both_of_disjoint {a b : OpcodeRow} {cw : CmdWord} (h : a.disjoint b = true) (ha : a.covers cw = true)
    (hb : b.covers cw = true) : False := by
  have hbit : ∀ x m m' : Bool, ((x && m ^^ x && m') && m && m') = false := by decide
  rw [OpcodeRow.disjoint, ← beq_iff_eq.mp ha, ← beq_iff_eq.mp hb, bne_iff_ne] at h
  refine h (BitVec.eq_of_getLsbD_eq fun k _ => ?_)
  simp only [BitVec.getLsbD_and, BitVec.getLsbD_xor]
  rw [hbit]
  exact BitVec.getLsbD_zero.symm

theorem op_eq_of_covers {r : OpcodeRow} {cw : CmdWord} (hr : r ∈ opcodeTable) (hc : r.covers cw = true) :
    cw.extractLsb' 8 8 = r.pattern.extractLsb' 8 8 := by
  obtain ⟨hmask, _⟩ := opcodeTable_rows r hr
  rw [← beq_iff_eq.mp hc, BitVec.extractLsb'_and, hmask]
  exact BitVec.and_allOnes.symm

/-- Outside CONFIGURE a row covers every word with its operation code. -/
theorem covers_of_op_eq {r : OpcodeRow} {cw cw' : CmdWord} (hr : r ∈ opcodeTable) (hc : r.covers cw = true)
    (hop : cw'.extractLsb' 8 8 = cw.extractLsb' 8 8) (hne : cw.extractLsb' 8 8 ≠ 0x03#8) : r.covers cw' = true := by
  obtain ⟨_, _, _, hmask⟩ := opcodeTable_rows r hr
  replace hmask := hmask (op_eq_of_covers hr hc ▸ hne)
  have hhigh : ∀ {x : CmdWord}, x.extractLsb' 8 8 = cw.extractLsb' 8 8 →
      x &&& r.mask = (cw.extractLsb' 8 8 &&& 0xFF#8) ++ 0x00#8 := fun {x} hx => by
    rw [hmask, eq_append_of_op hx, BitVec.and_append, BitVec.and_zero]
  rw [OpcodeRow.covers, beq_iff_eq] at hc ⊢
  rw [← hc, hhigh hop, hhigh rfl]

/-- Every well-formed command has a row that covers its encoding: the family `TableRow`. -/
theorem exists_row_of_wellFormed (i : Instr) : Laws.TableRow.Statement i := by
  cases i with
  | openInst en depth => exact Laws.TableRow.openInst en depth
  | close => exact Laws.TableRow.close
  | cfgGlobal v => exact Laws.TableRow.cfgGlobal v
  | cfgPress v => exact Laws.TableRow.cfgPress v
  | cfgRelease v => exact Laws.TableRow.cfgRelease v
  | cfgUp v => exact Laws.TableRow.cfgUp v
  | cfgDown v => exact Laws.TableRow.cfgDown v
  | cfgPrntf id => exact Laws.TableRow.cfgPrntf id
  | cfgMvntf id => exact Laws.TableRow.cfgMvntf id
  | cfgUnknown opt => exact Laws.TableRow.cfgUnknown opt
  | readStatus => exact Laws.TableRow.readStatus
  | serviceInterrupt => exact Laws.TableRow.serviceInterrupt
  | queryInfo => exact Laws.TableRow.queryInfo
  | read => exact Laws.TableRow.read
  | write => exact Laws.TableRow.write
  | blockRead => exact Laws.TableRow.blockRead
  | blockWrite => exact Laws.TableRow.blockWrite

/-- What decodes is covered by a row with its mnemonic: the row of its encoding, which has the same operation code. -/
theorem exists_row_of_decode {cw : CmdWord} {v : Word} {i : Instr} (h : decode ⟨cw, v⟩ = .ok i) :
    ∃ r ∈ opcodeTable, r.mnemonic = i.mnemonic ∧ r.covers cw = true := by
  obtain ⟨hwf, hop⟩ := wellFormed_of_decode h
  obtain ⟨r, hr, hname, hcovers⟩ := exists_row_of_wellFormed i hwf
  refine ⟨r, hr, hname, ?_⟩
  by_cases hcfg : cw.extractLsb' 8 8 = 0x03#8
  · rw [decode_of_configure (c := ⟨cw, v⟩) hcfg] at h
    rw [← Except.ok.inj h, (encode_decodeOption ..).2] at hcovers
    rw [eq_append_of_op hcfg]
    exact hcovers
  · exact covers_of_op_eq hr hcovers hop.symm fun hne => hcfg (hop.symm.trans hne)

/-- At most one row covers a word: the table's rows are disjoint. -/
theorem eq_of_covers {r r' : OpcodeRow} {cw : CmdWord} (hr : r ∈ opcodeTable) (hr' : r' ∈ opcodeTable)
    (hc : r.covers cw = true) (hc' : r'.covers cw = true) : r = r' := by
  have hpair : opcodeTable.Pairwise fun a b => ¬ (a.covers cw = true ∧ b.covers cw = true) := by
    have hdisjoint : opcodeTable.Pairwise fun a b => a.disjoint b = true := by decide
    exact hdisjoint.imp fun hab ⟨ha, hb⟩ => not_covers_both_of_disjoint hab ha hb
  have : Std.Symm fun a b : OpcodeRow => ¬ (a.covers cw = true ∧ b.covers cw = true) :=
    ⟨fun _ _ h hboth => h hboth.symm⟩
  by_contra hne
  exact hpair.forall hr hr' hne ⟨hc, hc'⟩

/-- A covered word decodes to its row's command: the row has a listed code, so the word decodes, and to a command of that row. -/
theorem decode_of_covers {r : OpcodeRow} {cw : CmdWord} (v : Word) (hr : r ∈ opcodeTable) (hc : r.covers cw = true) :
    ∃ i, decode ⟨cw, v⟩ = .ok i ∧ i.mnemonic = r.mnemonic := by
  obtain ⟨_, hlow, hhigh, _⟩ := opcodeTable_rows r hr
  rw [← op_eq_of_covers hr hc] at hlow hhigh
  obtain ⟨i, hi⟩ := decode_of_listedOp (c := ⟨cw, v⟩) hlow hhigh
  obtain ⟨r', hr', hname, hc'⟩ := exists_row_of_decode hi
  exact ⟨i, hi, by rw [← hname, eq_of_covers hr hr' hc hc']⟩

/-- A word that no row covers is rejected, naming its operation code. -/
theorem decode_of_no_row {cw : CmdWord} (v : Word) (hnone : ∀ r ∈ opcodeTable, r.covers cw = false) :
    decode ⟨cw, v⟩ = .error (.reservedOp (cw.extractLsb' 8 8)) := by
  cases hd : decode ⟨cw, v⟩ with
  | error e => rw [decode_eq_error hd]; rfl
  | ok i =>
    obtain ⟨r, hr, _, hc⟩ := exists_row_of_decode hd
    cases (hnone r hr).symm.trans hc

/-- Settles O1: each command's encoding is its code before its option code, which is how the decoder reads it. -/
theorem commandWordsRoundTrip : Obligations.CommandWordsRoundTrip := by
  intro i hwf
  cases i with
  | openInst en depth => exact decode_openWord en depth
  | close => exact decode_close 0#8 0#32
  | cfgGlobal v => exact decode_option 0x00#8 v
  | cfgPress v => exact decode_option 0x01#8 v
  | cfgRelease v => exact decode_option 0x02#8 v
  | cfgUp v => exact decode_option 0x03#8 v
  | cfgDown v => exact decode_option 0x04#8 v
  | cfgPrntf id => exact decode_option 0x05#8 id
  | cfgMvntf id => exact decode_option 0x06#8 id
  | cfgUnknown opt =>
    have hword : (encode (.cfgUnknown opt)).cw = 0x03#8 ++ opt := or_setWidth_eq_append 0x03#8 opt
    have hdecode := decode_option opt 0#32
    rw [← hword, decodeOption_of_unlisted 0#32 (of_decide_eq_true hwf)] at hdecode
    exact hdecode
  | readStatus => exact decode_readStatus 0#8 0#32
  | serviceInterrupt => exact decode_serviceInterrupt 0#8 0#32
  | queryInfo => exact decode_queryInfo 0#8 0#32
  | read => exact decode_read 0#8 0#32
  | write => exact decode_write 0#8 0#32
  | blockRead => exact decode_blockRead 0#8 0#32
  | blockWrite => exact decode_blockWrite 0#8 0#32

/-- Settles O2: OPEN and CONFIGURE keep their operands in the encoding, every other command only its operation code. -/
theorem encodingRecoversEveryMeaningfulBit : Obligations.EncodingRecoversEveryMeaningfulBit := by
  intro c i h
  obtain ⟨hwf, hop⟩ := wellFormed_of_decode h
  refine ⟨hwf, hop, ?_⟩
  rcases decode_eq_ok h with ⟨hopen, rfl⟩ | ⟨hcfg, rfl⟩ | ⟨hnopen, hncfg, _⟩
  · have hopt : (encode (.openInst (c.opt.extractLsb' 0 4) c.val)).opt.extractLsb' 0 4 = c.opt.extractLsb' 0 4 := by
      rw [encode_openInst, Command.opt_of_append, extractLsb'_enables]
    exact ⟨fun hcfg => absurd (hopen.symm.trans hcfg) (by decide), fun _ => hopt, fun _ => rfl⟩
  · have hnopen : c.op ≠ 0x01#8 := by rw [hcfg]; decide
    rw [(encode_decodeOption c.opt c.val).2]
    refine ⟨fun _ => Command.opt_of_append .., fun hopen => absurd hopen hnopen, ?_⟩
    rintro (hopen | ⟨_, hlisted⟩)
    · exact absurd hopen hnopen
    · exact if_pos hlisted
  · refine ⟨fun hcfg => absurd hcfg hncfg, fun hopen => absurd hopen hnopen, ?_⟩
    rintro (hopen | ⟨hcfg, _⟩)
    · exact absurd hopen hnopen
    · exact absurd hcfg hncfg

/-- Settles O3: whether a row covers the word decides what it decodes to, and VAL plays no part in that. -/
theorem decodingFollowsTheOpcodeTable : Obligations.DecodingFollowsTheOpcodeTable := by
  intro cw v v'
  refine ⟨fun r => decode_of_covers v, decode_of_no_row v, ?_⟩
  by_cases hrow : ∃ r ∈ opcodeTable, r.covers cw = true
  · obtain ⟨r, hr, hc⟩ := hrow
    obtain ⟨i, hi, hname⟩ := decode_of_covers v hr hc
    obtain ⟨i', hi', hname'⟩ := decode_of_covers v' hr hc
    rw [hi, hi']
    exact congrArg Except.ok (hname.trans hname'.symm)
  · have hnone : ∀ r ∈ opcodeTable, r.covers cw = false := fun r hr =>
      Bool.eq_false_iff.mpr fun hc => hrow ⟨r, hr, hc⟩
    rw [decode_of_no_row v hnone, decode_of_no_row v' hnone]

/-- Settles O5: each word is an operation code before an option code, and the decoder reads the two. -/
theorem sampleCommandWordsDecode : Obligations.SampleCommandWordsDecode :=
  ⟨decode_open 0x03#8 _, decode_open 0xF3#8 _, decode_close 0x00#8 _, decode_option 0x00#8 _, decode_option 0x03#8 _,
    decode_option 0x06#8 _, decode_option 0x07#8 _, decode_option 0xFF#8 _, decode_readStatus 0x00#8 _,
    decode_serviceInterrupt 0x00#8 _, decode_queryInfo 0x00#8 _, decode_blockWrite 0x00#8 _⟩

/-- Settles O6: a line assembles to its command's encoding; a missing operand reads as the 0 written out. -/
theorem assemblyLinesStandForTheirCommands : Obligations.AssemblyLinesStandForTheirCommands := by
  refine ⟨fun depth en => decode_openWord _ depth,
    fun v => ⟨decode_option 0x00#8 v, decode_option 0x01#8 v, decode_option 0x02#8 v, decode_option 0x03#8 v,
      decode_option 0x04#8 v, decode_option 0x05#8 v, decode_option 0x06#8 v⟩,
    fun opt v => ?_, decode_close 0#8 0#32, decode_readStatus 0#8 0#32, decode_serviceInterrupt 0#8 0#32,
    decode_queryInfo 0#8 0#32, decode_read 0#8 0#32, decode_write 0#8 0#32, decode_blockRead 0#8 0#32,
    decode_blockWrite 0#8 0#32, decode_option 0x00#8 1#32, decode_option 0x00#8 0#32, fun name => ?_, fun name v => ?_⟩
  · exact congrArg (fun cw => decode ⟨cw, v⟩) (or_setWidth_eq_append 0x03#8 _)
  · cases name <;> rfl
  · cases name <;> rfl

/-- Settles O41: the two operation codes alone select the commands, and both begin with the check of R192. -/
theorem eventCommandsIgnoreTheirOperands : Obligations.EventCommandsIgnoreTheirOperands :=
  ⟨fun opt v => ⟨decode_readStatus opt v, decode_serviceInterrupt opt v⟩,
    fun _ hi => ⟨whenOpen_closed hi, whenOpen_closed hi⟩⟩

end Sys2Proof.Machine
end

section
/-! PROOFS. The statements of 41_encoder.md: the signed position of a status word (R12, R121), the round trip (R122) and its
cases in numbers (R123, R124). -/

namespace Sys2Proof.Machine

/-- Shifting the position field to the top of the word and back sign-extends it (R12). -/
theorem decodeStatus_position (W : PosWidth) (w : Word) :
    (decodeStatus W w).position = (w.setWidth W.bits).signExtend 32 := by
  have hs : W.sxShift + W.bits = 32 := by cases W <;> rfl
  have hW : 0 < W.bits := by cases W <;> decide
  have hsign : (w <<< W.sxShift).msb = (w.setWidth W.bits).msb := by
    rw [BitVec.msb_eq_getLsbD_last, BitVec.msb_eq_getLsbD_last, BitVec.getLsbD_shiftLeft, BitVec.getLsbD_setWidth,
      show 32 - 1 - W.sxShift = W.bits - 1 by omega]
    simp [show 31 < 32 by decide, show ¬ 31 < W.sxShift by omega, hW]
  refine BitVec.eq_of_getLsbD_eq fun k hk => ?_
  rw [decodeStatus, BitVec.getLsbD_sshiftRight, BitVec.getLsbD_signExtend, hsign]
  by_cases hkW : k < W.bits
  · simp [hk, hkW, show W.sxShift + k < 32 by omega]
  · simp [hk, hkW, show ¬ W.sxShift + k < 32 by omega]

theorem toInt_decodeStatus_position (W : PosWidth) (w : Word) :
    (decodeStatus W w).position.toInt = (w.setWidth W.bits).toInt := by
  rw [decodeStatus_position, BitVec.toInt_signExtend_of_le ((posWidth_bits_le W).trans (by decide))]

/-- A position that fits in W bits is the signed value of its low W bits (R122). -/
theorem toInt_setWidth_of_fits (W : PosWidth) {pos : Word} (hlow : -(2 : Int) ^ (W.bits - 1) ≤ pos.toInt)
    (hhigh : pos.toInt < (2 : Int) ^ (W.bits - 1)) : (pos.setWidth W.bits).toInt = pos.toInt := by
  have hlt := pos.isLt
  rw [BitVec.toInt_setWidth, Int.bmod_def]
  rw [BitVec.toInt_eq_toNat_cond] at hlow hhigh ⊢
  cases W <;> norm_num [PosWidth.bits] at hlow hhigh ⊢ <;> omega

/-- The encoder keeps the low W bits of the position. -/
theorem setWidth_encodeStatus (W : PosWidth) (p r : Bool) (pos : Word) :
    (encodeStatus W p r true pos).setWidth W.bits = pos.setWidth W.bits := by
  refine BitVec.eq_of_getLsbD_eq fun k hk => ?_
  rw [BitVec.getLsbD_setWidth, BitVec.getLsbD_setWidth, getLsbD_encodeStatus_position p r true pos hk, Bool.true_and]

theorem setWidth_encodeStatus_unmoved (W : PosWidth) (p r : Bool) (pos : Word) :
    (encodeStatus W p r false pos).setWidth W.bits = 0#W.bits := by
  refine BitVec.eq_of_getLsbD_eq fun k hk => ?_
  rw [BitVec.getLsbD_setWidth, getLsbD_encodeStatus_position p r false pos hk, Bool.false_and, Bool.and_false,
    BitVec.getLsbD_zero]

/-- The flags come back whatever the position (R120, R121). -/
theorem decodeStatus_encodeStatus (W : PosWidth) (p r m : Bool) (pos : Word) :
    decodeStatus W (encodeStatus W p r m pos) =
      ⟨p, r, m, (decodeStatus W (encodeStatus W p r m pos)).position⟩ := by
  conv_lhs => rw [decodeStatus, encodeStatus_pressed, encodeStatus_released, encodeStatus_moved]
  rfl

/-- Settles O10: the position is the sign extension of the low W bits. -/
theorem positionIsTwosComplement : Obligations.PositionIsTwosComplement := by
  intro W w
  have hpow : 2 ^ W.bits = 2 * 2 ^ (W.bits - 1) := by cases W <;> rfl
  rw [toInt_decodeStatus_position, BitVec.toInt_eq_toNat_cond, BitVec.toNat_setWidth]
  exact if_congr (by omega) rfl (by push_cast; rfl)

/-- Settles O9: the flags come back as they are, and the position as the signed value of its low W bits. -/
theorem statusWordRoundTrip : Obligations.StatusWordRoundTrip := by
  intro W p r pos
  refine ⟨fun hlow hhigh => ?_, ?_⟩
  · have hpos : (decodeStatus W (encodeStatus W p r true pos)).position = pos := BitVec.eq_of_toInt_eq <| by
      rw [toInt_decodeStatus_position, setWidth_encodeStatus, toInt_setWidth_of_fits W hlow hhigh]
    rw [decodeStatus_encodeStatus, hpos]
  · have hpos : (decodeStatus W (encodeStatus W p r false pos)).position = 0#32 := BitVec.eq_of_toInt_eq <| by
      rw [toInt_decodeStatus_position, setWidth_encodeStatus_unmoved, BitVec.toInt_zero, BitVec.toInt_zero]
    rw [decodeStatus_encodeStatus, hpos]

/-- Settles O11, by evaluation of the words in numbers. -/
theorem signAndWidthCases : Obligations.SignAndWidthCases := by
  unfold Obligations.SignAndWidthCases
  decide

end Sys2Proof.Machine
end

section
/-! PROOFS. The rules of the whole machine on the record of accesses (20_memory.md, 60_exceptions.md, 70_reset_and_hazards.md):
what a command appends to it, that every access is legal, how many there are, who notifies, which draws the reads take and which
latches a dispatch acknowledges. -/

namespace Sys2Proof.Machine

/-! What a completed command appends to the record, and how many device reads are in it. -/

/-- The events es, with n reads among them, that a command c that completes from s appends to the record. -/
inductive Appends (s : State) (c : Instr) : List Event → Nat → Prop where
  /-- No access: an answer, or a change of the block alone. -/
  | silent : Appends s c [] 0
  /-- OPEN, CLOSE and CFG.GLOBAL 0 switch the device's interrupts off. -/
  | switchedOff : Appends s c [.write offIen 0#32] 0
  | enabled (v : Word) (i : Instance) (h : c = .cfgGlobal v) (hv : v ≠ 0#32) (hi : s.inst = some i) :
      Appends s c [.write offIstat (evAll.setWidth 32), .read offPos (readValue s 0), .write offIen (i.enableMask.setWidth 32)] 1
  | event (b mask : BitVec 4) (v : Word) (i : Instance) (hc : EventOption c b v) (hi : s.inst = some i)
      (ha : i.irqActive = true) : Appends s c [.write offIstat (b.setWidth 32), .write offIen (mask.setWidth 32)] 0
  | polled (i j : Instance) (ws : List Event) (h : c = .readStatus) (hi : s.inst = some i) (he : i.empty = true)
      (hc : CaptureEffect i s j ws) :
      Appends s c ([.read offIstat (readValue s 0), .read offPos (readValue s 1)] ++ ws) 2
  | notThisDevice (h : c = .serviceInterrupt) : Appends s c [.read offIstat (readValue s 0)] 1
  | moved (i : Instance) (h : c = .serviceInterrupt) (hi : s.inst = some i) (ha : dispatchAct i s ≠ 0#4)
      (hp : dispatchAct i s &&& evPR = 0#4) :
      Appends s c ([.read offIstat (readValue s 0)] ++ notices .move i.moveNotifier ++
        [.write offIstat ((dispatchAct i s &&& evUD).setWidth 32)]) 1
  | pressed (i j : Instance) (ws : List Event) (h : c = .serviceInterrupt) (hi : s.inst = some i)
      (hp : dispatchAct i s &&& evPR ≠ 0#4) (hc : CaptureEffect i (memRead offIstat s) j ws) :
      Appends s c ([.read offIstat (readValue s 0), .read offIstat (readValue s 1), .read offPos (readValue s 2)] ++ ws ++
        notices .pr i.prNotifier ++ [.write offIstat ((dispatchAct i s &&& evPR).setWidth 32)]) 3

/-- A capture leaves the notifiers. -/
theorem CaptureEffect.notifier_eq {i j : Instance} {s : State} {ws : List Event} (hc : CaptureEffect i s j ws) :
    j.prNotifier = i.prNotifier := by
  cases hc <;> rfl

/-- Every completed command appends to the record, and uses up one draw for each read it appends. -/
theorem Effect.appends {c : Instr} {s t : State} (he : Effect s c t) :
    ∃ es n, Appends s c es n ∧ t.trace = s.trace ++ es ∧ t.draws = s.draws.drop n ∧ t.drawCount = s.drawCount + n := by
  cases he with
  | info | noStorage | notifierError | prNotifier | moveNotifier | fails | errorRead | wordRead =>
    exact ⟨[], 0, .silent, (List.append_nil _).symm, rfl, rfl⟩
  | opened | closed | disabled => exact ⟨_, 0, .switchedOff, rfl, rfl, rfl⟩
  | enabled v i hi hv => exact ⟨_, 1, .enabled v i rfl hv hi, rfl, rfl, rfl⟩
  | event _ b v i mask hc hi =>
    cases ha : i.irqActive with
    | false => exact ⟨[], 0, .silent, rfl, rfl, rfl⟩
    | true => exact ⟨_, 0, .event b mask v i hc hi ha, rfl, rfl, rfl⟩
  | pollFoundNone i j ws hi _ he hc | pollFoundWord i j ws hi _ he hc =>
    exact ⟨_, 2, .polled i j ws rfl hi he hc, rfl, rfl, rfl⟩
  | notThisDevice => exact ⟨_, 1, .notThisDevice rfl, rfl, rfl, rfl⟩
  | moved i hi ha hp => exact ⟨_, 1, .moved i rfl hi ha hp, rfl, rfl, rfl⟩
  | pressed i j ws hi hp hc => exact ⟨_, 3, .pressed i j ws rfl hi hp hc, by rw [hc.notifier_eq], rfl, rfl⟩

/-! The writes of a capture and the notification of a branch. -/

/-- A capture writes the ack, and before it 0 to the enable register if it stops interrupts (R143, R145). -/
theorem CaptureEffect.mem_cases {i j : Instance} {s : State} {ws : List Event} {e : Event} (hc : CaptureEffect i s j ws)
    (he : e ∈ ws) : e = .write offIen 0#32 ∨ e = .write offIstat (captureAck (readValue s 0)) := by
  cases hc with
  | noEvent | stored => exact .inr (List.mem_singleton.mp he)
  | stopped => simpa using he

theorem mem_notices {ch : Channel} {id : Word} {e : Event} : e ∈ notices ch id ↔ id ≠ 0#32 ∧ e = .notify ch id := by
  by_cases h : id = 0#32 <;> simp [notices, h]

@[simp] theorem notices_filter_isAccess (ch : Channel) (id : Word) : (notices ch id).filter Event.isAccess = [] := by
  by_cases h : id = 0#32 <;> simp [notices, h]

@[simp] theorem notices_filterMap_readWord (ch : Channel) (id : Word) :
    (notices ch id).filterMap Event.readWord = [] := by
  by_cases h : id = 0#32 <;> simp [notices, h]

theorem length_notices_le (ch : Channel) (id : Word) : (notices ch id).length ≤ 1 := by
  by_cases h : id = 0#32 <;> simp [notices, h]

/-! Legality (R51 to R53, R84, R206). -/

/-- An event word of four bits, on the device's 32 (R84). -/
theorem toNat_setWidth_lt (b : BitVec 4) : (b.setWidth 32).toNat < 16 := by
  rw [BitVec.toNat_setWidth_of_le (by decide)]
  exact b.isLt

theorem toNat_captureAck_lt (status : Word) : (captureAck status).toNat < 16 := by
  rw [captureAck, BitVec.toNat_setWidth_of_le (by decide)]
  exact Nat.lt_of_lt_of_le (BitVec.isLt _) (by decide)

theorem legalEvent_ack (b : BitVec 4) : legalEvent (.write offIstat (b.setWidth 32)) := ⟨.inr rfl, toNat_setWidth_lt b⟩

theorem legalEvent_enable (b : BitVec 4) : legalEvent (.write offIen (b.setWidth 32)) := ⟨.inl rfl, toNat_setWidth_lt b⟩

theorem CaptureEffect.legal {i j : Instance} {s : State} {ws : List Event} (hc : CaptureEffect i s j ws) :
    ∀ e ∈ ws, legalEvent e := by
  intro e he
  rcases hc.mem_cases he with rfl | rfl
  · exact legalEvent_enable 0#4
  · exact ⟨.inr rfl, toNat_captureAck_lt _⟩

theorem legalEvent_of_mem_notices {ch : Channel} {id : Word} : ∀ e ∈ notices ch id, legalEvent e := by
  intro e he
  obtain ⟨hid, rfl⟩ := mem_notices.mp he
  exact hid

/-- Every event a command appends is legal. -/
theorem Appends.legal {s : State} {c : Instr} {es : List Event} {n : Nat} (h : Appends s c es n) :
    ∀ e ∈ es, legalEvent e := by
  have hstat : ∀ v, legalEvent (.read offIstat v) := fun _ => .inr rfl
  have hpos : ∀ v, legalEvent (.read offPos v) := fun _ => .inl rfl
  have hoff : legalEvent (.write offIen 0#32) := legalEvent_enable 0#4
  cases h with
  | silent => simp
  | switchedOff => simpa using hoff
  | enabled => simp [hpos, legalEvent_ack, legalEvent_enable]
  | event => simp [legalEvent_ack, legalEvent_enable]
  | polled _ _ _ _ _ _ hc =>
    simp only [List.forall_mem_append, List.forall_mem_cons]
    exact ⟨⟨hstat _, hpos _, List.forall_mem_nil _⟩, hc.legal⟩
  | notThisDevice => simpa using hstat _
  | moved =>
    simp only [List.forall_mem_append, List.forall_mem_singleton]
    exact ⟨⟨hstat _, legalEvent_of_mem_notices⟩, legalEvent_ack _⟩
  | pressed _ _ _ _ _ _ hc =>
    simp only [List.forall_mem_append, List.forall_mem_cons]
    exact ⟨⟨⟨⟨hstat _, hstat _, hpos _, List.forall_mem_nil _⟩, hc.legal⟩, legalEvent_of_mem_notices⟩, legalEvent_ack _,
      List.forall_mem_nil _⟩

/-- The offsets of a legal access (R51, R53). -/
theorem legalEvent.access {e : Event} (h : legalEvent e) :
    (∀ off v, e = .read off v ∨ e = .write off v → off % 4 = 0 ∧ off + 4 ≤ 16) ∧
    (∀ off v, e = .read off v → off = 0x0 ∨ off = 0x8) ∧
    (∀ off v, e = .write off v → (off = 0x4 ∨ off = 0x8) ∧ v.toNat < 16) := by
  cases e with
  | read off v =>
    refine ⟨?_, ?_, fun _ _ he => (nomatch he)⟩
    · rintro _ _ (he | he) <;> cases he
      rcases h with rfl | rfl <;> decide
    · rintro _ _ ⟨⟩
      exact h
  | write off v =>
    obtain ⟨hoff, hv⟩ := h
    refine ⟨?_, fun _ _ he => (nomatch he), ?_⟩
    · rintro _ _ (he | he) <;> cases he
      rcases hoff with rfl | rfl <;> decide
    · rintro _ _ ⟨⟩
      exact ⟨hoff, hv⟩
  | notify ch id => exact ⟨fun _ _ he => (nomatch he), fun _ _ he => (nomatch he), fun _ _ he => (nomatch he)⟩

/-- Settles O45: a step appends nothing, or the events of a command, each of them legal. -/
theorem everyAccessIsLegal : Obligations.EveryAccessIsLegal := by
  intro s t h
  rcases step_eq_next h with ⟨_, rfl⟩ | ⟨_, _, _, _, _, hx⟩
  · exact ⟨[], (List.append_nil _).symm, fun e he => (nomatch he)⟩
  · obtain ⟨es, n, happ, htrace, _⟩ := (exec_effect hx).appends
    exact ⟨es, htrace, fun e he => ⟨happ.legal e he, (happ.legal e he).access⟩⟩

/-! How much a command does (R242), and in which order it reads (R56). -/

theorem CaptureEffect.length_le {i j : Instance} {s : State} {ws : List Event} (hc : CaptureEffect i s j ws) :
    ws.length ≤ 2 ∧ ws.filter (fun e => !e.isAccess) = [] ∧ ws.filterMap Event.readWord = [] := by
  cases hc <;> simp

/-- At most six accesses, and one notification only in a dispatch. -/
theorem Appends.bounded {s : State} {c : Instr} {es : List Event} {n : Nat} (h : Appends s c es n) :
    (es.filter Event.isAccess).length ≤ 6 ∧ (es.filter fun e => !e.isAccess).length ≤ 1 := by
  have hnotices : ∀ ch id, ((notices ch id).filter fun e => !e.isAccess).length ≤ 1 := fun ch id =>
    (List.length_filter_le ..).trans (length_notices_le ch id)
  cases h with
  | silent | switchedOff | enabled | event | notThisDevice => simp [List.filter_cons]
  | polled _ _ ws _ _ _ hc =>
    obtain ⟨hlen, hnone, _⟩ := hc.length_le
    have haccess := (List.length_filter_le Event.isAccess ws).trans hlen
    refine ⟨?_, by simp [hnone]⟩
    simp only [List.filter_append, List.filter_cons, List.filter_nil, isAccess_read, if_true, List.length_append,
      List.length_cons, List.length_nil]
    omega
  | moved i => simpa [List.filter_cons] using hnotices .move i.moveNotifier
  | pressed i _ ws _ _ _ hc =>
    obtain ⟨hlen, hnone, _⟩ := hc.length_le
    have haccess := (List.length_filter_le Event.isAccess ws).trans hlen
    refine ⟨?_, by simpa [List.filter_cons, hnone] using hnotices .pr i.prNotifier⟩
    simp only [List.filter_append, List.filter_cons, List.filter_nil, isAccess_read, isAccess_write, notices_filter_isAccess,
      if_true, List.length_append, List.length_cons, List.length_nil]
    omega

/-- The reads have the next n values the device presents. -/
theorem Appends.reads {s : State} {c : Instr} {es : List Event} {n : Nat} (h : Appends s c es n) :
    es.filterMap Event.readWord = (List.range n).map (readValue s) := by
  cases h with
  | silent | switchedOff | enabled | event | notThisDevice | moved => simp [List.filterMap_cons]
  | polled _ _ _ _ _ _ hc | pressed _ _ _ _ _ _ hc =>
    obtain ⟨_, _, hreads⟩ := hc.length_le
    simp [hreads, List.range_succ]

/-- Settles O46: the bound holds of every record a command can append. -/
theorem workOfACommandIsBounded : Obligations.WorkOfACommandIsBounded := by
  intro c s t h
  obtain ⟨es, n, happ, htrace, _⟩ := (exec_effect h).appends
  exact ⟨es, htrace, happ.bounded⟩

/-- Settles O48: the record's reads are the draws used up. -/
theorem readsTakeTheDrawsInOrder : Obligations.ReadsTakeTheDrawsInOrder := by
  intro c s t h
  obtain ⟨es, n, happ, htrace, hdraws, hcount⟩ := (exec_effect h).appends
  exact ⟨es, n, htrace, happ.reads, hdraws, hcount⟩

/-! Who notifies (R206). -/

theorem CaptureEffect.notify_notMem {i j : Instance} {s : State} {ws : List Event} (hc : CaptureEffect i s j ws) (ch : Channel)
    (id : Word) : Event.notify ch id ∉ ws := by
  intro hmem
  rcases hc.mem_cases hmem with h | h <;> cases h

/-- A notification comes from a dispatch, on an installed channel with its handle. -/
theorem Appends.notify_mem {s : State} {c : Instr} {es : List Event} {n : Nat} {ch : Channel} {id : Word}
    (h : Appends s c es n) (hmem : Event.notify ch id ∈ es) :
    c = .serviceInterrupt ∧ id ≠ 0#32 ∧ ∃ i, s.inst = some i ∧ i.notifier ch = id := by
  cases h with
  | silent | switchedOff | enabled | event | notThisDevice => simp at hmem
  | polled _ _ _ _ _ _ hc => simp [hc.notify_notMem] at hmem
  | moved i h hi =>
    simp only [List.mem_append, List.mem_singleton, reduceCtorEq, false_or, or_false, mem_notices] at hmem
    obtain ⟨hid, he⟩ := hmem
    cases he
    exact ⟨h, hid, i, hi, rfl⟩
  | pressed i _ _ h hi _ hc =>
    simp only [List.mem_append, List.mem_cons, List.not_mem_nil, reduceCtorEq, hc.notify_notMem, false_or, or_false,
      mem_notices] at hmem
    obtain ⟨hid, he⟩ := hmem
    cases he
    exact ⟨h, hid, i, hi, rfl⟩

/-- Settles O47: the bound of O46 and where a notification can come from. -/
theorem onlyDispatchNotifies : Obligations.OnlyDispatchNotifies := by
  refine ⟨rfl, rfl, fun c s t h => ?_⟩
  obtain ⟨es, n, happ, htrace, _⟩ := (exec_effect h).appends
  exact ⟨es, htrace, happ.bounded.2, fun ch id => happ.notify_mem⟩

/-! Which latches a dispatch acknowledges (R151, R144). -/

theorem captureAck_and_moves (status : Word) : captureAck status &&& 0xC#32 = 0#32 := by
  rw [captureAck_eq_and, BitVec.and_assoc]
  exact BitVec.and_zero

theorem CaptureEffect.ack_mem {i j : Instance} {s : State} {ws : List Event} {v : Word} (hc : CaptureEffect i s j ws)
    (hmem : Event.write offIstat v ∈ ws) : v = captureAck (readValue s 0) := by
  rcases hc.mem_cases hmem with h | h <;> cases h
  rfl

/-- The ack of a branch, under the latches of the other branch. -/
theorem ack_and_eq_zero (act : BitVec 4) {m m' : BitVec 4} (h : m &&& m' = 0#4) :
    (act &&& m).setWidth 32 &&& m'.setWidth 32 = 0#32 := by
  rw [← BitVec.setWidth_and, BitVec.and_assoc, h, BitVec.and_zero]
  rfl

/-- Every ack of a dispatch touches only the latches of its branch. -/
theorem Appends.ack_mem {s : State} {es : List Event} {n : Nat} {i : Instance} {v : Word} (hi : s.inst = some i)
    (h : Appends s .serviceInterrupt es n) (hmem : Event.write offIstat v ∈ es) :
    if dispatchAct i s &&& evPR ≠ 0#4 then v &&& 0xC#32 = 0#32 else v &&& 0x3#32 = 0#32 := by
  cases h with
  | enabled _ _ h | polled _ _ _ h => cases h
  | event _ _ _ _ hc => cases hc
  | silent => cases hmem
  | switchedOff => simp [offIstat, offIen] at hmem
  | notThisDevice => simp at hmem
  | moved i' _ hi' _ hp =>
    cases hi'.symm.trans hi
    simp only [List.mem_append, List.mem_singleton, reduceCtorEq, mem_notices, and_false, false_or] at hmem
    cases hmem
    rw [if_neg (not_not.mpr hp)]
    exact ack_and_eq_zero _ (m' := evPR) (by decide)
  | pressed i' _ _ _ hi' hp hc =>
    cases hi'.symm.trans hi
    simp only [List.mem_append, List.mem_cons, List.not_mem_nil, reduceCtorEq, mem_notices, and_false, false_or,
      or_false] at hmem
    rw [if_pos hp]
    rcases hmem with hack | hack
    · rw [hc.ack_mem hack]
      exact captureAck_and_moves _
    · cases hack
      exact ack_and_eq_zero _ (m' := evUD) (by decide)

/-- Settles O42: each branch of the dispatch acknowledges its own latches, and the capture those of the press/release branch. -/
theorem pressReleaseAndMoveAreExclusive : Obligations.PressReleaseAndMoveAreExclusive := by
  intro s t i hi h
  obtain ⟨es, n, happ, htrace, _⟩ := (exec_effect h).appends
  exact ⟨es, htrace, fun v => happ.ack_mem hi⟩

/-! What a device sees of it: the reference device of R214, a harness (log 17). -/

section
variable (d : RefDevice) (v : Word)

theorem access_ack : d.access (.write offIstat v) = some { d with latches := d.latches &&& ~~~(v.extractLsb' 0 4) } := rfl
theorem access_enable : d.access (.write offIen v) = some { d with enables := v.extractLsb' 0 4 } := rfl
theorem access_position :
    d.access (.read offPos v) = if v = d.cnt then some { d with cnt := 0#32, changed := false } else none := rfl

end

/-- Only an ack changes the device's latches: it clears those it names. -/
theorem access_latches {d d' : RefDevice} {e : Event} (h : d.access e = some d') :
    d'.latches = d.latches ∨ ∃ v, e = .write offIstat v ∧ d'.latches = d.latches &&& ~~~(v.extractLsb' 0 4) := by
  cases e with
  | read off v =>
    simp only [RefDevice.access] at h
    left
    split at h
    · split at h
      · cases h; rfl
      · cases h
    · split at h
      · split at h
        · cases h; rfl
        · cases h
      · cases h
  | write off v =>
    simp only [RefDevice.access] at h
    split at h
    · rename_i hoff
      cases h
      exact .inr ⟨v, by rw [hoff], rfl⟩
    · split at h
      · cases h; exact .inl rfl
      · cases h
  | notify => cases h; exact .inl rfl

/-- An ack that leaves UP and DOWN alone leaves the device's UP and DOWN latches. -/
theorem latches_moves_of_ack {v : Word} (l : BitVec 4) (hv : v &&& 0xC#32 = 0#32) :
    (l &&& ~~~(v.extractLsb' 0 4)) &&& 0xC#4 = l &&& 0xC#4 := by
  have hcleared : ∀ l x : BitVec 4, x &&& 0xC#4 = 0#4 → (l &&& ~~~x) &&& 0xC#4 = l &&& 0xC#4 := by decide
  refine hcleared l _ ?_
  have hlow := congrArg (BitVec.extractLsb' 0 4) hv
  rwa [BitVec.extractLsb'_and] at hlow

theorem replay_latches_moves {es : List Event} (hacks : ∀ v, Event.write offIstat v ∈ es → v &&& 0xC#32 = 0#32) :
    ∀ {d d' : RefDevice}, d.replay es = some d' → d'.latches &&& 0xC#4 = d.latches &&& 0xC#4 := by
  induction es with
  | nil =>
    rintro d _ ⟨⟩
    rfl
  | cons e es ih =>
    intro d d' h
    have hrest := fun v hv => hacks v (List.mem_cons_of_mem e hv)
    rw [RefDevice.replay] at h
    cases ha : d.access e with
    | none => rw [ha] at h; cases h
    | some d1 =>
      rw [ha] at h
      rw [ih hrest h]
      rcases access_latches ha with hl | ⟨v, rfl, hl⟩
      · rw [hl]
      · rw [hl, latches_moves_of_ack _ (hacks v List.mem_cons_self)]

/-- Settles O59: with an enabled PRESS or RELEASE asserted no ack of the dispatch touches UP or DOWN (O42). -/
theorem dispatchDefersThePendingMove : Obligations.DispatchDefersThePendingMove := by
  intro s t i es d d' hi hpr h htrace hreplay
  obtain ⟨es', htrace', hacks⟩ := pressReleaseAndMoveAreExclusive s t i hi h
  obtain rfl := List.append_cancel_left (htrace.symm.trans htrace')
  refine replay_latches_moves (fun v hv => ?_) hreplay
  have hack := hacks v hv
  rwa [if_pos hpr] at hack

/-- A device that takes part in the accesses of an enable is left with no latch and the mask as its enables. -/
theorem replay_enable {d d' : RefDevice} {pos : Word} {mask : BitVec 4}
    (h : d.replay [.write offIstat (evAll.setWidth 32), .read offPos pos, .write offIen (mask.setWidth 32)] = some d') :
    d' = ⟨0#4, false, 0#32, mask⟩ := by
  have hclear : d.latches &&& ~~~((evAll.setWidth 32).extractLsb' 0 4) = 0#4 := BitVec.and_zero
  have hmask : (mask.setWidth 32).extractLsb' 0 4 = mask := by
    rw [BitVec.extractLsb'_setWidth_of_le (by decide), BitVec.extractLsb'_eq_self]
  simp only [RefDevice.replay, access_ack, access_position, access_enable, hclear, hmask] at h
  by_cases hpos : pos = d.cnt
  · rw [if_pos hpos] at h
    cases h
    rfl
  · rw [if_neg hpos] at h
    cases h

/-- Settles O58: the enable acknowledges every latch, reads the position and writes the mask, in that order. -/
theorem enablingClearsTheReferenceDevice : Obligations.EnablingClearsTheReferenceDevice := by
  intro s t i v es d d' hi hv h htrace hreplay
  rw [exec_cfgGlobal_of_ne_zero hi hv, respond_eq_next] at h
  subst h
  obtain rfl := List.append_cancel_left (htrace.symm.trans (enable_trace ..))
  rw [replay_enable hreplay]
  exact ⟨rfl, rfl, rfl, by simp [RefDevice.line]⟩

end Sys2Proof.Machine
end

section
/-! PROOFS. The statements on which commands complete (00_scope.md R17, 46_lifecycle.md R192, 70_reset_and_hazards.md R230, R232),
the two branches of a dispatch that notify (R150 to R154) and the polling READ_STATUS (R161), with DRAIN (R87). -/

namespace Sys2Proof.Machine

section
variable {s : State} {i : Instance}

/-! The move branch of a dispatch (R152). -/

theorem exec_serviceInterrupt_of_move (hi : s.inst = some i) (ha : dispatchAct i s ≠ 0#4)
    (hp : dispatchAct i s &&& evPR = 0#4) :
    exec .serviceInterrupt s = .next { memRead offIstat s with
      inst := some { i with irqCount := i.irqCount + 1#32 }
      trace := s.trace ++ [.read offIstat (readValue s 0)] ++ notices .move i.moveNotifier ++
        [.write offIstat ((dispatchAct i s &&& evUD).setWidth 32)]
      response := some ⟨.ok, 1#32⟩ } := by
  have hact : latchBits s.presented &&& i.effective = dispatchAct i s := by rw [presented_eq_readValue, dispatchAct]
  refine (whenOpen_opened hi).trans ?_
  simp only [hact]
  rw [if_neg ha, if_neg (not_not.mpr hp), dispatchMove, handled, respond_eq, notifyIfInstalled_eq, ← presented_eq_readValue]
  rfl

/-- The press/release branch, by what its capture leaves and writes. -/
theorem exec_serviceInterrupt_of_capture {r : CaptureResult} {j : Instance} {ws : List Event} (hi : s.inst = some i)
    (ha : dispatchAct i s &&& evPR ≠ 0#4)
    (hc : capture i (memRead offIstat s) = ⟨r, j, captureState (memRead offIstat s) ws⟩) :
    exec .serviceInterrupt s = .next { captureState (memRead offIstat s) ws with
      inst := some { j with irqCount := j.irqCount + 1#32 }
      trace := (captureState (memRead offIstat s) ws).trace ++ notices .pr j.prNotifier ++
        [.write offIstat ((dispatchAct i s &&& evPR).setWidth 32)]
      response := some ⟨.ok, 1#32⟩ } :=
  (exec_serviceInterrupt_of_pressRelease hi ha).trans (dispatchPressRelease_of_capture _ hc)

/-! Which commands complete (R192, R200). -/

/-- While OPEN every command but OPEN completes. -/
theorem exec_of_opened {c : Instr} (hi : s.inst = some i) (hopen : ∀ en depth, c ≠ .openInst en depth) :
    ∃ t, exec c s = .next t := by
  have hevent : ∀ {b v}, EventOption c b v → ∃ t, exec c s = .next t := fun {b v} hc => by
    rw [hc.exec_eq]
    exact ⟨_, setEventEnable_of_opened b v hi⟩
  have hnotifier : ∀ held id write, ∃ t, answerNotifier held id write s = .next t := fun held id write => by
    rw [answerNotifier_eq]
    split <;> split <;> exact ⟨_, rfl⟩
  have hpop : ∀ j s', ∃ t, popAndRespond j s' = .next t := fun j s' => by
    unfold popAndRespond
    split <;> exact ⟨_, rfl⟩
  cases c with
  | openInst en depth => exact absurd rfl (hopen en depth)
  | close => exact ⟨_, exec_close_of_opened hi⟩
  | cfgGlobal v =>
    by_cases hv : v = 0#32
    · rw [hv]; exact ⟨_, exec_cfgGlobal_zero hi⟩
    · exact ⟨_, exec_cfgGlobal_of_ne_zero hi hv⟩
  | cfgPress v => exact hevent (.press v)
  | cfgRelease v => exact hevent (.release v)
  | cfgUp v => exact hevent (.up v)
  | cfgDown v => exact hevent (.down v)
  | cfgPrntf id => rw [exec_cfgPrntf_of_opened id hi]; exact hnotifier ..
  | cfgMvntf id => rw [exec_cfgMvntf_of_opened id hi]; exact hnotifier ..
  | cfgUnknown opt => exact ⟨_, exec_cfgUnknown_opened opt hi⟩
  | readStatus =>
    cases hp : i.pendingError with
    | queueFull => exact ⟨_, exec_readStatus_of_pendingError hi hp⟩
    | none =>
      cases he : i.empty with
      | false => rw [exec_readStatus_of_not_empty hi hp he]; exact hpop ..
      | true =>
        obtain ⟨r, j, ws, hc⟩ : ∃ r j ws, capture i s = ⟨r, j, captureState s ws⟩ := by
          rcases capture_cases i s with ⟨_, hc⟩ | ⟨_, _, _, hc⟩ | ⟨_, _, hc⟩ <;> exact ⟨_, _, _, hc⟩
        rw [exec_readStatus_of_empty hi hp he hc]
        exact hpop ..
  | serviceInterrupt =>
    by_cases ha : dispatchAct i s = 0#4
    · exact ⟨_, exec_serviceInterrupt_of_none hi ha⟩
    · by_cases hp : dispatchAct i s &&& evPR = 0#4
      · exact ⟨_, exec_serviceInterrupt_of_move hi ha hp⟩
      · exact ⟨_, exec_serviceInterrupt_of_pressRelease hi hp⟩
  | queryInfo => exact ⟨_, exec_queryInfo s⟩
  | read => exact ⟨_, AlwaysFails.read.exec_eq hi⟩
  | write => exact ⟨_, AlwaysFails.write.exec_eq hi⟩
  | blockRead => exact ⟨_, AlwaysFails.blockRead.exec_eq hi⟩
  | blockWrite => exact ⟨_, AlwaysFails.blockWrite.exec_eq hi⟩

/-- While CLOSED an OPEN completes, with or without the storage. -/
theorem exec_open_of_closed (en : BitVec 4) (depth : Word) (hi : s.inst = none) :
    ∃ t, exec (.openInst en depth) s = .next t := by
  rcases Nat.lt_or_ge s.params.queueMaxDepth (depthOf depth) with hd | hd
  · exact ⟨_, exec_open_of_noStorage en hi hd⟩
  · exact ⟨_, exec_open_of_storage en hi hd⟩

end

/-- Settles O23: the lifecycle state and the command decide which of the three it is. -/
theorem onlyTheLifecycleStopsACommand : Obligations.OnlyTheLifecycleStopsACommand := by
  intro c s
  cases hi : s.inst with
  | none =>
    by_cases hopen : ∃ en depth, c = .openInst en depth
    · obtain ⟨en, depth, rfl⟩ := hopen
      exact .inl (exec_open_of_closed en depth hi)
    · have hne : ∀ en depth, c ≠ .openInst en depth := fun en depth hc => hopen ⟨en, depth, hc⟩
      by_cases hinfo : c = .queryInfo
      · rw [hinfo]
        exact .inl ⟨_, exec_queryInfo s⟩
      · exact .inr (.inl ⟨exec_of_closed hi hne hinfo, rfl, hne, hinfo⟩)
  | some i =>
    by_cases hopen : ∃ en depth, c = .openInst en depth
    · obtain ⟨en, depth, rfl⟩ := hopen
      exact .inr (.inr ⟨exec_open_of_opened en depth hi, nofun, en, depth, rfl⟩)
    · exact .inl (exec_of_opened hi fun en depth hc => hopen ⟨en, depth, hc⟩)

/-- What OPEN makes and answers depends on the parameters alone (R190). -/
theorem open_eq_of_params {s s' t t' : State} {en : BitVec 4} {depth : Word} (hi : s.inst = none) (hi' : s'.inst = none)
    (hparams : s.params = s'.params) (h : exec (.openInst en depth) s = .next t)
    (h' : exec (.openInst en depth) s' = .next t') : t.inst = t'.inst ∧ t.response = t'.response := by
  rcases Nat.lt_or_ge s.params.queueMaxDepth (depthOf depth) with hd | hd
  · rw [exec_open_of_noStorage en hi hd] at h
    rw [exec_open_of_noStorage en hi' (hparams ▸ hd)] at h'
    cases h
    cases h'
    exact ⟨hi.trans hi'.symm, rfl⟩
  · rw [exec_open_of_storage en hi hd] at h
    rw [exec_open_of_storage en hi' (hparams ▸ hd)] at h'
    cases h
    cases h'
    exact ⟨rfl, rfl⟩

/-- Settles O24: CLOSE leaves a closed block with its parameters, and OPEN looks at nothing else. -/
theorem nothingOfAClosedInstanceSurvives : Obligations.NothingOfAClosedInstanceSurvives := by
  intro s t u fresh v i en depth hi hclose hopen hfresh hparams hv
  rw [exec_close_of_opened hi] at hclose
  cases hclose
  refine open_eq_of_params ?_ hfresh ?_ hopen hv
  · rfl
  · exact hparams.symm

/-- Settles O7: the fetch finds nothing, or the oldest command. -/
theorem stepPerformsTheOldestCommand : Obligations.StepPerformsTheOldestCommand := by
  refine fun s => ⟨fun hp => ?_, fun c rest i => step_of_decode_ok⟩
  rw [step, fetch, hp]

/-- Settles O25: a reset leaves nothing open, nothing recorded and nothing at the port. -/
theorem resetLeavesTheBlockClosed : Obligations.ResetLeavesTheBlockClosed :=
  ⟨rfl, rfl, rfl, (stepPerformsTheOldestCommand State.reset).1 rfl⟩

/-- Settles O38: the move branch, whose accesses and notification are those of the dispatch itself. -/
theorem moveDispatchQueuesNothing : Obligations.MoveDispatchQueuesNothing := by
  rintro s i _ hi rfl ha hp
  exact ⟨_, exec_serviceInterrupt_of_move hi ha hp, rfl⟩

/-- Settles O39: the press/release branch after a capture that stores nothing, or a word in the free slot. -/
theorem pressReleaseDispatchCaptures : Obligations.PressReleaseDispatchCaptures := by
  rintro s i _ hi rfl hpr status pos w hroom
  have hword : captureWord (memRead offIstat s).params.posWidth (readValue (memRead offIstat s) 0)
      (readValue (memRead offIstat s) 1) = w := by
    rw [readValue_memRead, readValue_memRead]
    rfl
  by_cases hw : w = 0#32
  · have hexec := exec_serviceInterrupt_of_capture hi hpr (capture_of_noEvent (hword.trans hw))
    refine ⟨_, { i with irqCount := i.irqCount + 1#32 }, hexec, ?_, fun _ => rfl, fun h => absurd hw h⟩
    rw [captureState_memRead_trace, readValue_memRead, captureAck_eq_and]
    rfl
  · have hf := Instance.full_eq_false.mpr (hroom.resolve_left hw)
    have hcapture := capture_of_room (fun h => hw (hword.symm.trans h)) hf
    rw [hword] at hcapture
    have hexec := exec_serviceInterrupt_of_capture hi hpr hcapture
    refine ⟨_, { i.enqueued w with irqCount := i.irqCount + 1#32 }, hexec, ?_, fun h => absurd h hw, fun _ =>
      ⟨rfl, slotLookup_slotWrite_same .., fun k hk => slotLookup_slotWrite_other _ _ hk⟩⟩
    rw [captureState_memRead_trace, readValue_memRead, captureAck_eq_and]
    rfl

/-- A capture into an empty queue has room, so it stops nothing (R161). -/
theorem CaptureEffect.of_empty {p : Params} {i j : Instance} {s : State} {ws : List Event} (hc : CaptureEffect i s j ws)
    (hq : QueueOk p i) (he : i.empty = true) :
    j.pendingError = i.pendingError ∧ j.irqActive = i.irqActive ∧ ws = [.write offIstat (captureAck (readValue s 0))] := by
  cases hc with
  | noEvent | stored => exact ⟨rfl, rfl, rfl⟩
  | stopped _ hf => cases hf.symm.trans (hq.full_eq_false_of_empty he)

/-- Settles O36: a pending error is cleared without an access, a queued word taken without one, and the capture of a poll has room. -/
theorem readStatusNeverStopsInterrupts : Obligations.ReadStatusNeverStopsInterrupts := by
  intro s i hi hq
  refine ⟨fun he => ?_, ?_⟩
  · rcases capture_cases i s with ⟨_, hc⟩ | ⟨_, _, _, hc⟩ | ⟨_, hf, _⟩
    · rw [hc]
    · rw [hc]
    · cases hf.symm.trans (hq.full_eq_false_of_empty he)
  · obtain ⟨t, ht⟩ := exec_of_opened (c := .readStatus) hi nofun
    cases exec_effect ht with
    | event _ _ _ _ _ hc | notifierError _ _ _ _ hc | fails _ _ _ _ hc => cases hc
    | errorRead i' hi' =>
      cases hi'.symm.trans hi
      exact ⟨_, _, [], ht, rfl, rfl, rfl, (List.append_nil _).symm, nofun⟩
    | wordRead i' hi' hp =>
      cases hi'.symm.trans hi
      exact ⟨_, _, [], ht, rfl, hp, rfl, (List.append_nil _).symm, nofun⟩
    | pollFoundNone i' j ws hi' hp he hc | pollFoundWord i' j ws hi' hp he hc =>
      cases hi'.symm.trans hi
      obtain ⟨hpending, hactive, rfl⟩ := hc.of_empty hq he
      exact ⟨_, _, _, ht, rfl, hpending.trans hp, hactive, rfl, by simp [offIstat]⟩

/-! DRAIN (R87): one READ_STATUS, by its answer. -/

/-- A DRAIN that ends with these words and this error flag, on NO_STATUS and an empty queue. -/
def DrainsTo (o : Option Drained) (ws : List Word) (met : Bool) : Prop :=
  ∃ d, o = some d ∧ d.words = ws ∧ d.metQueueFull = met ∧ d.state.response = some ⟨.noStatus, 0#32⟩ ∧
    ∃ j, d.state.inst = some j ∧ j.empty = true

section
variable {s t : State} {fuel : Nat} {w : Word} {ws : List Word} {met : Bool}

theorem drain_of_noStatus {j : Instance} (h : exec .readStatus s = .next t) (hr : t.response = some ⟨.noStatus, 0#32⟩)
    (hj : t.inst = some j) (he : j.empty = true) : DrainsTo (drain (fuel + 1) s) [] false :=
  ⟨{ words := [], metQueueFull := false, state := t }, by simp only [drain, h, hr], rfl, rfl, hr, j, hj, he⟩

theorem drain_of_ok (h : exec .readStatus s = .next t) (hr : t.response = some ⟨.ok, w⟩)
    (hd : DrainsTo (drain fuel t) ws met) : DrainsTo (drain (fuel + 1) s) (w :: ws) met := by
  obtain ⟨d, hd, hwords, hrest⟩ := hd
  exact ⟨{ d with words := w :: d.words }, by simp only [drain, h, hr, hd, Option.map_some], congrArg _ hwords, hrest⟩

theorem drain_of_queueFull (h : exec .readStatus s = .next t) (hr : t.response = some ⟨.queueFull, w⟩)
    (hd : DrainsTo (drain fuel t) ws met) : DrainsTo (drain (fuel + 1) s) ws true := by
  obtain ⟨d, hd, hwords, _, hlast⟩ := hd
  exact ⟨{ d with metQueueFull := true }, by simp only [drain, h, hr, hd, Option.map_some], hwords, rfl, hlast⟩

end

/-- With no error pending DRAIN returns the content, by induction on it: each READ_STATUS takes its head, and the last one polls a
device that shows no event. -/
theorem drain_contents {ws : List Word} :
    ∀ {s : State} {i : Instance} {fuel : Nat}, s.inst = some i → QueueOk s.params i → i.pendingError = .none →
      captureWord s.params.posWidth (readValue s 0) (readValue s 1) = 0#32 → i.contents s.opens = ws → ws.length ≤ fuel →
      DrainsTo (drain (fuel + 1) s) ws false := by
  induction ws with
  | nil =>
    intro s i fuel hi hq hp hw hc _
    have he := (hq.contents_eq_nil_iff s.opens).mp hc
    exact drain_of_noStatus ((exec_readStatus_of_empty hi hp he (capture_of_noEvent hw)).trans
      (popAndRespond_of_none (pop_eq_none.mpr he))) rfl rfl he
  | cons w ws ih =>
    intro s i fuel hi hq hp hw hc hfuel
    obtain ⟨fuel, rfl⟩ := Nat.exists_eq_add_of_le' (Nat.le_trans (Nat.le_add_left 1 _) hfuel)
    rcases hq.pop_cases s.opens with ⟨hnil, _⟩ | ⟨v, j, hcons, hpop, hj, _⟩
    · cases hnil.symm.trans hc
    · obtain ⟨rfl, hrest⟩ := List.cons.inj (hcons.symm.trans hc)
      obtain ⟨he, _, hjeq⟩ := pop_eq_some.mp hpop
      have hpj : j.pendingError = .none := by rw [hjeq]; exact hp
      exact drain_of_ok ((exec_readStatus_of_not_empty hi hp he).trans (popAndRespond_of_some hpop)) rfl
        (ih rfl hj hpj hw hrest (Nat.le_of_succ_le_succ hfuel))

/-- Settles O57: a pending error costs one READ_STATUS, after which DRAIN returns the content. -/
theorem drainReturnsTheWholeQueue : Obligations.DrainReturnsTheWholeQueue := by
  intro s i fuel hi hq hw hfuel
  obtain ⟨fuel, rfl⟩ := Nat.exists_eq_add_of_le' (Nat.le_trans (Nat.le_add_left 2 _) hfuel)
  have hlen : (i.contents s.opens).length ≤ fuel := by
    rw [Instance.length_contents]
    omega
  cases hp : i.pendingError with
  | none => exact drain_contents hi hq hp hw rfl (Nat.le_succ_of_le hlen)
  | queueFull =>
    have hsame : SameQueue i { i with pendingError := .none } := ⟨rfl, rfl, rfl, rfl⟩
    exact drain_of_queueFull (exec_readStatus_of_pendingError hi hp) rfl
      (drain_contents rfl (hsame.queueOk hq) rfl hw (hsame.contents_eq s.opens) hlen)

end Sys2Proof.Machine
end

section
/-! PROOFS. The rules of the whole machine on the state: which command writes which element (10_state.md R40), which error says
what (60_exceptions.md R201), that interrupts stay off (70_reset_and_hazards.md R236) and that the byte order is not observable
(20_memory.md R52). -/

namespace Sys2Proof.Machine

/-! The writers of each element (R40). -/

/-- A capture writes only the slots, `in`, `pendingError` and `irqActive`. -/
theorem CaptureEffect.frame {i j : Instance} {s : State} {ws : List Event} (hc : CaptureEffect i s j ws) :
    j = { i with slots := j.slots, inIdx := j.inIdx, pendingError := j.pendingError, irqActive := j.irqActive } := by
  cases hc <;> rfl

/-- Settles O43: each case of `Effect` names the elements it writes, and a capture belongs to READ_STATUS or SERVICE_INTERRUPT. -/
theorem eachElementHasItsWriters : Obligations.EachElementHasItsWriters := by
  intro c s t h
  have he := exec_effect h
  refine ⟨fun j hi hj => ?_, fun i hi hj => ?_, fun i j hi hj => ?_⟩
  · rcases he.queueEffect hj with ⟨en, depth, hc, _⟩ | ⟨i, hi', _⟩
    · exact ⟨en, depth, hc⟩
    · cases hi.symm.trans hi'
  · cases he with
    | closed => rfl
    | info | noStorage | notifierError | fails | notThisDevice => cases hi.symm.trans hj
    | _ => cases hj
  · cases he with
    | info | noStorage | notifierError | fails | notThisDevice => cases hi.symm.trans hj; simp
    | opened _ _ hn => cases hn.symm.trans hi
    | closed => cases hj
    | enabled _ _ hi' | disabled _ hi' | prNotifier _ _ hi' | moveNotifier _ _ hi' | errorRead _ hi' | wordRead _ hi'
    | moved _ hi' => cases hi'.symm.trans hi; cases hj; simp
    | event _ _ _ _ _ hc hi' => cases hi'.symm.trans hi; cases hj; cases hc <;> simp
    | pollFoundNone _ _ _ hi' _ _ hc | pollFoundWord _ _ _ hi' _ _ hc | pressed _ _ _ hi' _ hc =>
      cases hi'.symm.trans hi
      cases hj
      rw [hc.frame]
      simp

/-! Errors (R201). -/

/-- Without an event the status read has no PRESS and no RELEASE to acknowledge (R142, R144). -/
theorem captureAck_of_noEvent {W : PosWidth} {status pos : Word} (h : captureWord W status pos = 0#32) :
    captureAck status = 0#32 := by
  obtain ⟨hp, hr, _⟩ := (encodeStatus_eq_zero ..).mp h
  have hlow : status.extractLsb' 0 2 = 0#2 := BitVec.eq_of_getLsbD_eq fun k hk => by
    rw [BitVec.getLsbD_extractLsb', BitVec.getLsbD_zero, Nat.zero_add]
    rcases (by omega : k = 0 ∨ k = 1) with rfl | rfl
    · rw [hp, Bool.and_false]
    · rw [hr, Bool.and_false]
  rw [captureAck, hlow]
  rfl

/-- A depth above the storage is no default and no raised one (R74, R9). -/
theorem lt_toNat_of_lt_depthOf {p : Params} {depth : Word} (h : p.queueMaxDepth < depthOf depth) :
    p.queueMaxDepth < depth.toNat := by
  unfold depthOf defaultDepth minDepth Params.queueMaxDepth at h
  split at h
  · omega
  · split at h
    · omega
    · exact h

/-- A capture that leaves an empty queue empty has met no event. -/
theorem CaptureEffect.noEvent_of_empty {p : Params} {i j : Instance} {s : State} {ws : List Event}
    (hc : CaptureEffect i s j ws) (hq : QueueOk p i) (he : i.empty = true) (hj : j.empty = true) :
    captureWord s.params.posWidth (readValue s 0) (readValue s 1) = 0#32 ∧ j = i ∧ ws = [.write offIstat 0#32] := by
  cases hc with
  | noEvent hw => exact ⟨hw, rfl, by rw [captureAck_of_noEvent hw]⟩
  | stored w _ _ hf =>
    have hcount := (Instance.count_eq_zero (hq.enqueued hf w).inBound hq.outBound).mpr hj
    rw [hq.count_enqueued hf] at hcount
    exact absurd hcount (Nat.succ_ne_zero _)
  | stopped _ hf => cases hf.symm.trans (hq.full_eq_false_of_empty he)

/-- Settles O50: five cases of `Effect` answer an error, and each says which command, why, and what it left. -/
theorem errorsSayWhyAndChangeNothing : Obligations.ErrorsSayWhyAndChangeNothing := by
  intro c s t r d hq h hr
  cases exec_effect h with
  | noStorage en depth hi hd =>
    cases hr
    exact ⟨fun _ => rfl, nofun, nofun, fun _ => ⟨en, depth, rfl, lt_toNat_of_lt_depthOf hd⟩, nofun, nofun, nofun, nofun,
      fun _ _ _ => rfl⟩
  | notifierError _ _ i hi hc =>
    cases hr
    cases hc with
    | prHeld id hid hh =>
      exact ⟨fun _ => rfl, nofun, nofun, nofun, fun _ => ⟨id, i, hid, hi, .inl ⟨rfl, hh⟩⟩, nofun, nofun, nofun,
        fun _ _ _ => rfl⟩
    | moveHeld id hid hh =>
      exact ⟨fun _ => rfl, nofun, nofun, nofun, fun _ => ⟨id, i, hid, hi, .inr ⟨rfl, hh⟩⟩, nofun, nofun, nofun,
        fun _ _ _ => rfl⟩
    | prNone hh =>
      exact ⟨fun _ => rfl, nofun, nofun, nofun, nofun, fun _ => ⟨i, hi, .inl ⟨rfl, hh⟩⟩, nofun, nofun, fun _ _ _ => rfl⟩
    | moveNone hh =>
      exact ⟨fun _ => rfl, nofun, nofun, nofun, nofun, fun _ => ⟨i, hi, .inr ⟨rfl, hh⟩⟩, nofun, nofun, fun _ _ _ => rfl⟩
  | fails _ _ i hi hc =>
    cases hr
    cases hc with
    | unknown opt =>
      exact ⟨fun _ => rfl, nofun, nofun, nofun, nofun, nofun, nofun, fun _ => ⟨opt, rfl⟩, fun _ _ _ => rfl⟩
    | read | write | blockRead | blockWrite =>
      exact ⟨fun _ => rfl, nofun, nofun, nofun, nofun, nofun, fun _ => by simp, nofun, fun _ _ _ => rfl⟩
  | errorRead i hi hp =>
    cases hr
    exact ⟨fun _ => rfl, fun _ => ⟨rfl, i, hi, hp, rfl⟩, nofun, nofun, nofun, nofun, nofun, nofun,
      fun _ hne => absurd rfl hne⟩
  | pollFoundNone i j ws hi hp he hc hj =>
    obtain ⟨hw, rfl, rfl⟩ := hc.noEvent_of_empty (hq i hi) he hj
    cases hr
    exact ⟨fun _ => rfl, nofun, fun _ => ⟨rfl, hi.symm, j, hi, Instance.empty_eq_true.mp he, hw, rfl⟩, nofun, nofun, nofun,
      nofun, nofun, fun _ _ hne => absurd rfl hne⟩
  | _ =>
    cases hr
    exact ⟨fun hne => absurd rfl hne, nofun, nofun, nofun, nofun, nofun, nofun, nofun, fun hne => absurd rfl hne⟩

/-! Interrupts stay off (R236). -/

theorem CaptureEffect.irqActive_of_off {i j : Instance} {s : State} {ws : List Event} (hc : CaptureEffect i s j ws)
    (hoff : i.irqActive = false) : j.irqActive = false := by
  cases hc with
  | noEvent | stored => exact hoff
  | stopped => rfl

/-- While interrupts are off no source is enabled (R150). -/
theorem dispatchAct_of_off {i : Instance} (s : State) (hoff : i.irqActive = false) : dispatchAct i s = 0#4 := by
  rw [dispatchAct, Instance.effective, hoff]
  exact BitVec.and_zero

section
variable {c : Instr} {s t : State} {i : Instance} (hi : s.inst = some i) (hoff : i.irqActive = false)
  (hc : ∀ v, v ≠ 0#32 → c ≠ .cfgGlobal v)
include hi hoff hc

/-- Only CFG.GLOBAL with a non-zero operand sets `irqActive`. -/
theorem Effect.irqActive_of_off {j : Instance} (he : Effect s c t) (hj : t.inst = some j) : j.irqActive = false := by
  cases he with
  | info | noStorage | notifierError | fails | notThisDevice => cases hi.symm.trans hj; exact hoff
  | opened _ _ hn => cases hn.symm.trans hi
  | closed => cases hj
  | enabled v _ _ hv => exact absurd rfl (hc v hv)
  | disabled => cases hj; rfl
  | event _ _ _ _ _ _ hi' | prNotifier _ _ hi' | moveNotifier _ _ hi' | errorRead _ hi' | wordRead _ hi' | moved _ hi' =>
    cases hi'.symm.trans hi
    cases hj
    exact hoff
  | pollFoundNone _ _ _ hi' _ _ hcap | pollFoundWord _ _ _ hi' _ _ hcap | pressed _ _ _ hi' _ hcap =>
    cases hi'.symm.trans hi
    cases hj
    exact hcap.irqActive_of_off hoff

/-- Nothing but 0 is written to the enable register. -/
theorem Appends.enable_of_off {es : List Event} {n : Nat} {v : Word} (h : Appends s c es n)
    (hmem : Event.write offIen v ∈ es) : v = 0#32 := by
  cases h with
  | silent | notThisDevice => simp at hmem
  | switchedOff => cases List.mem_singleton.mp hmem; rfl
  | enabled v _ h hv => exact absurd h (hc v hv)
  | event _ _ _ _ _ hi' ha =>
    cases hi'.symm.trans hi
    cases ha.symm.trans hoff
  | polled _ _ _ _ _ _ hcap =>
    simp only [List.mem_append, List.mem_cons, List.not_mem_nil, reduceCtorEq, false_or] at hmem
    rcases hcap.mem_cases hmem with h | h <;> cases h
    rfl
  | moved _ _ hi' ha =>
    cases hi'.symm.trans hi
    exact absurd (dispatchAct_of_off s hoff) ha
  | pressed _ _ _ _ hi' hp =>
    cases hi'.symm.trans hi
    rw [dispatchAct_of_off s hoff] at hp
    exact absurd BitVec.zero_and hp

end

/-- Settles O51: no command but the one shut out sets `irqActive` or writes the mask, and a dispatch finds no enabled source. -/
theorem interruptsStayOffUntilEnabled : Obligations.InterruptsStayOffUntilEnabled := by
  intro c s t i hi hoff hc h
  have he := exec_effect h
  refine ⟨fun j => he.irqActive_of_off hi hoff hc, ?_, ?_⟩
  · rintro rfl
    rw [exec_serviceInterrupt_of_none hi (dispatchAct_of_off s hoff), respond_eq_next] at h
    rw [h]
  · obtain ⟨es, n, happ, htrace, _⟩ := he.appends
    exact ⟨es, htrace, fun v => happ.enable_of_off hi hoff hc⟩

/-! The byte order (R52, D13): every operation is the same operation under another byte order. -/

/-- A capture that leaves its state under another byte order. -/
def Captured.withByteOrder (b : ByteOrder) (c : Captured) : Captured := { c with state := c.state.withByteOrder b }

section
variable (b : ByteOrder) (s : State) (i : Instance)

theorem notifyIfInstalled_withByteOrder (ch : Channel) (id : Word) :
    notifyIfInstalled ch id (s.withByteOrder b) = (notifyIfInstalled ch id s).withByteOrder b := by
  rw [notifyIfInstalled_eq, notifyIfInstalled_eq]
  rfl

theorem captureStore_withByteOrder (w ack : Word) :
    captureStore i w ack (s.withByteOrder b) = (captureStore i w ack s).withByteOrder b := by
  unfold captureStore
  split
  · rfl
  · split <;> rfl

theorem capture_withByteOrder : capture i (s.withByteOrder b) = (capture i s).withByteOrder b :=
  captureStore_withByteOrder b (memRead offPos (memRead offIstat s)) i _ _

theorem popAndRespond_withByteOrder :
    popAndRespond i (s.withByteOrder b) = mapNext (State.withByteOrder b) (popAndRespond i s) := by
  cases h : pop s.opens i with
  | none => rw [popAndRespond_of_none h, popAndRespond_of_none (s := s.withByteOrder b) h]; rfl
  | some wj => rw [popAndRespond_of_some h, popAndRespond_of_some (s := s.withByteOrder b) h]; rfl

theorem whenOpen_withByteOrder {body body' : Instance → Host.Outcome State Fault Refusal}
    (h : ∀ i, body' i = mapNext (State.withByteOrder b) (body i)) :
    whenOpen (s.withByteOrder b) body' = mapNext (State.withByteOrder b) (whenOpen s body) := by
  unfold whenOpen State.withByteOrder
  cases s.inst with
  | none => rfl
  | some i => exact h i

theorem exec_open_withByteOrder (en : BitVec 4) (depth : Word) :
    exec (.openInst en depth) (s.withByteOrder b) = mapNext (State.withByteOrder b) (exec (.openInst en depth) s) := by
  cases hi : s.inst with
  | some i =>
    rw [exec_open_of_opened en depth hi]
    exact exec_open_of_opened (s := s.withByteOrder b) en depth hi
  | none =>
    rcases Nat.lt_or_ge s.params.queueMaxDepth (depthOf depth) with hd | hd
    · rw [exec_open_of_noStorage en hi hd]
      exact exec_open_of_noStorage (s := s.withByteOrder b) en hi hd
    · rw [exec_open_of_storage en hi hd]
      exact exec_open_of_storage (s := s.withByteOrder b) en hi hd

theorem setEventEnable_withByteOrder (e : BitVec 4) (v : Word) :
    setEventEnable e v (s.withByteOrder b) = mapNext (State.withByteOrder b) (setEventEnable e v s) :=
  whenOpen_withByteOrder b s fun i => by
    dsimp only
    rw [apply_ite (mapNext _)]
    rfl

theorem execCfgGlobal_withByteOrder (v : Word) :
    execCfgGlobal v (s.withByteOrder b) = mapNext (State.withByteOrder b) (execCfgGlobal v s) :=
  whenOpen_withByteOrder b s fun i => by
    dsimp only
    rw [apply_ite (mapNext _)]
    rfl

theorem answerNotifier_withByteOrder (held id : Word) (write : Word → Instance) :
    answerNotifier held id write (s.withByteOrder b) = mapNext (State.withByteOrder b) (answerNotifier held id write s) := by
  unfold answerNotifier
  cases changeNotifier held id <;> rfl

theorem execReadStatus_withByteOrder :
    execReadStatus (s.withByteOrder b) = mapNext (State.withByteOrder b) (execReadStatus s) :=
  whenOpen_withByteOrder b s fun i => by
    cases i.pendingError with
    | queueFull => rfl
    | none =>
      dsimp only
      rw [capture_withByteOrder]
      cases i.empty with
      | false => exact popAndRespond_withByteOrder b s i
      | true => exact popAndRespond_withByteOrder b (capture i s).state (capture i s).inst

theorem dispatchPressRelease_withByteOrder (act : BitVec 4) :
    dispatchPressRelease act i (s.withByteOrder b) = mapNext (State.withByteOrder b) (dispatchPressRelease act i s) := by
  unfold dispatchPressRelease
  rw [capture_withByteOrder]
  simp only [Captured.withByteOrder, notifyIfInstalled_withByteOrder]
  rfl

theorem dispatchMove_withByteOrder (act : BitVec 4) :
    dispatchMove act i (s.withByteOrder b) = mapNext (State.withByteOrder b) (dispatchMove act i s) := by
  unfold dispatchMove
  rw [notifyIfInstalled_withByteOrder]
  rfl

theorem execServiceInterrupt_withByteOrder :
    execServiceInterrupt (s.withByteOrder b) = mapNext (State.withByteOrder b) (execServiceInterrupt s) :=
  whenOpen_withByteOrder b s fun i => by
    dsimp only
    rw [apply_ite (mapNext _), apply_ite (mapNext _), ← dispatchPressRelease_withByteOrder, ← dispatchMove_withByteOrder]
    rfl

/-- No command reads the byte order (R52, D13). -/
theorem exec_withByteOrder (c : Instr) :
    exec c (s.withByteOrder b) = mapNext (State.withByteOrder b) (exec c s) := by
  cases c with
  | openInst en depth => exact exec_open_withByteOrder b s en depth
  | cfgGlobal v => exact execCfgGlobal_withByteOrder b s v
  | cfgPress v | cfgRelease v | cfgUp v | cfgDown v => exact setEventEnable_withByteOrder b s _ v
  | cfgPrntf id | cfgMvntf id => exact whenOpen_withByteOrder b s fun _ => answerNotifier_withByteOrder b s ..
  | readStatus => exact execReadStatus_withByteOrder b s
  | serviceInterrupt => exact execServiceInterrupt_withByteOrder b s
  | queryInfo => rfl
  | close | cfgUnknown _ | read | write | blockRead | blockWrite => exact whenOpen_withByteOrder b s fun _ => rfl

end

/-- Settles O52: the fetch reads the port alone, and no command reads the byte order. -/
theorem byteOrderIsUnobservable : Obligations.ByteOrderIsUnobservable := by
  intro s b
  cases hp : s.port with
  | nil =>
    rw [(stepPerformsTheOldestCommand s).1 hp, (stepPerformsTheOldestCommand (s.withByteOrder b)).1 hp]
    rfl
  | cons c rest =>
    have hp' : (s.withByteOrder b).port = c :: rest := hp
    cases hd : decode c with
    | ok i =>
      rw [step_of_decode_ok hp hd, step_of_decode_ok hp' hd]
      exact exec_withByteOrder b { s with port := rest } i
    | error e =>
      rw [step_of_decode_error hp hd, step_of_decode_error hp' hd]
      rfl

end Sys2Proof.Machine
end
